-- ==== Sys2Proof/Word.lean ====
section
/-! DEFINITION. The words of the block whose width depends on no parameter (spec/10_state.md R10); the others stand in Decode.lean, by the formulas of spec/00_scope.md R7. Every value is unsigned (R8). -/

namespace Sys2Proof

/-- A byte of the stream, of BUF, of LAST, CMDR, SUM, ERR_CMD, ERR_A, ERR_B, CFG_N, CFG_K (R8, R10). -/
abbrev Byte := BitVec 8

/-- A 16-bit field: cell voltage, resistance, current, temperature, end-of-charge voltage (R21 to R24). -/
abbrev U16 := BitVec 16

/-- A 32-bit field: watt-hours, amp-hours (R21). -/
abbrev U32 := BitVec 32

/-- ERR_CODE, 3 bits (R30). -/
abbrev ErrCode := BitVec 3

end Sys2Proof
end

