-- ==== Sys2Proof/Syntax.lean ====
section
/-! DEFINITION. The instructions of the block are the frames it receives (spec/30_encoding.md): one constructor per row of spec/opcode_table.json. A term is one whole frame as it stands on the wire, less the three prefix bytes its constructor stands for: the declared-length byte and the checksum byte are operands like any other, right or wrong, because the block takes them as they come (R62, R66). -/

namespace Sys2Proof

/-- KIND (spec/10_state.md R16): the three frame kinds that can be decoded. The fourth of DOC1's variants, Unknown, "is not a KIND value". -/
inductive Kind where
  /-- cell-voltage frame, KIND = 0 -/
  | v
  /-- measurement frame, KIND = 1 -/
  | m
  /-- impedance frame, KIND = 2 -/
  | z
  deriving DecidableEq, Repr, Inhabited

/-- The frames (R71). -/
inductive Instr where
  /-- VFRAME, command 0x56 (R63): declared length, the N cell voltages, watt-hours, amp-hours, checksum. -/
  | vframe (declared : Byte) (cells : List U16) (wh ah : U32) (checksum : Byte)
  /-- MFRAME, command 0x57 (R64): declared length, end-of-charge voltage, mode, current, temperatures 1 and 2, state of charge, checksum. -/
  | mframe (declared : Byte) (eoc : U16) (mode : Byte) (cur t1 t2 : U16) (soc checksum : Byte)
  /-- ZFRAME, command 0x58 (R65): declared length, mode, current, the N cell resistances, checksum. -/
  | zframe (declared mode : Byte) (cur : U16) (res : List U16) (checksum : Byte)
  /-- UNKNOWN (R72): the marker pair and a command byte that is none of 0x56, 0x57, 0x58; no further byte belongs to it. -/
  | unknown (cmd : Byte)
  deriving DecidableEq, Repr

end Sys2Proof
end

