-- ==== Sys2Proof/Config.lean ====
section
/-! DEFINITION. The arguments of the model that are fixed for one block (spec/00_scope.md R7, spec/92_eei_decisions.md D30) and the free values. N, K and the checksum enable, its other arguments, are not here: they come with the Reset event and are registers (R5). -/

namespace Sys2Proof

/-- The two parameters the spec leaves OPEN: "SUPPORTED_N (default {16}, D6) and CW (default 32, D17) are arguments of the model" (D30). Every type and operation of the block takes them. -/
structure Params where
  /-- SUPPORTED_N: the cell counts of the supported device models (R6) -/
  supportedN : List Byte
  /-- CW: the width of an event counter (R29) -/
  counterWidth : Nat
  deriving DecidableEq, Repr

/-- The defaults of D30. The host's fixed names (State, exec, step, core) are the block at these arguments (log entry 8). -/
def Config.params : Params := { supportedN := [16], counterWidth := 32 }

/-- What a read of KIND would give while KIND holds no value (R39, spec/93 U13 "any value"; log entry 4). Free: no run reads it. -/
opaque Config.anyKind : Kind

/-- What a read of LEN would give while LEN holds no value (R39, spec/93 U13 "any value"; log entry 4). Free: no run reads it. -/
opaque Config.anyLen : Nat

/-- What a read of a BUF offset would give that was never written since reset (R34, spec/93 U13 "any value"; log entry 4). Free: no run reads it. -/
opaque Config.anyByte : Nat → Byte

end Sys2Proof
end

