-- ==== Sys2Proof/WellFormed.lean ====
section
/-! DEFINITION. Which terms of Instr are frames of a block configured for `n` cells. A wrong declared-length or checksum byte does not make a frame ill-formed: the block receives such frames and answers them with an error (R106, R118). -/

namespace Sys2Proof

/-- R63, R65: a V or Z frame carries exactly N cells. R71: UNKNOWN is "any other value" than the three commands. -/
def Instr.wf (n : Nat) : Instr → Bool
  | .vframe _ cells _ _ _ => cells.length == n
  | .mframe _ _ _ _ _ _ _ _ => true
  | .zframe _ _ _ res _ => res.length == n
  | .unknown cmd => !(cmd == 0x56 || cmd == 0x57 || cmd == 0x58)

end Sys2Proof
end

