-- ==== Sys2Proof/Decode.lean ====
section
/-! DEFINITION. The opcode map, the frame lengths, the assembly of fields from bytes, the decoder and the encoder (spec/30_encoding.md, spec/20_memory.md R41 to R44). `n` is the cell count N throughout: nothing here is written for one N (R5, R131). -/

namespace Sys2Proof

/-- MARK, the start-marker byte (R7, R60). -/
def mark : Byte := 0x24

/-- CMD_V, CMD_M, CMD_Z (R7, R71). -/
def Kind.cmd : Kind → Byte
  | .v => 0x56
  | .m => 0x57
  | .z => 0x58

/-- The kind a command byte selects, none for the 253 unknown ones (R71, R72). -/
def kindOfCmd (b : Byte) : Option Kind :=
  if b = 0x56 then some .v
  else if b = 0x57 then some .m
  else if b = 0x58 then some .z
  else none

/-- LEN_V = 2N + 10, LEN_M = 12, LEN_Z = 2N + 5: the bytes captured after the prefix (R7, R74). -/
def Kind.len (n : Nat) : Kind → Nat
  | .v => 2 * n + 10
  | .m => 12
  | .z => 2 * n + 5

/-! ### The derived sizes of R7 -/

/-- ceil(log2 n). -/
def ceilLog2 (n : Nat) : Nat := if n ≤ 1 then 0 else Nat.log2 (n - 1) + 1

/-- BUFSZ = LEN_V, "the largest of the three counts" (R7): 42 at N = 16. -/
def bufSizeFor (n : Nat) : Nat := Kind.len n .v

/-- The width of CNT and LEN, ceil(log2(BUFSZ + 1)) (R10): 6 at N = 16. -/
def countWidthFor (n : Nat) : Nat := ceilLog2 (bufSizeFor n + 1)

/-- IW, the width of a cell index, ceil(log2 N), at least 1 (R7): 4 at N = 16. -/
def indexWidthFor (n : Nat) : Nat := max 1 (ceilLog2 n)

/-- TW, the width of the voltage sum, 16 + ceil(log2 N) (R7): 20 at N = 16. -/
def totalWidthFor (n : Nat) : Nat := 16 + ceilLog2 n

/-- The N the sizes of a block are taken at: the largest cell count it supports, 16 for the default {16} (log entry 8). -/
def Params.maxN (P : Params) : Nat := P.supportedN.foldr (fun n m => max n.toNat m) 0

/-- BUFSZ of a block. -/
def Params.bufSize (P : Params) : Nat := bufSizeFor P.maxN

/-- The width of CNT and LEN of a block. -/
def Params.countWidth (P : Params) : Nat := countWidthFor P.maxN

/-- IW of a block. -/
def Params.indexWidth (P : Params) : Nat := indexWidthFor P.maxN

/-- TW of a block. -/
def Params.totalWidth (P : Params) : Nat := totalWidthFor P.maxN

/-- CNT and LEN (R10, R14). -/
abbrev Count (P : Params := Config.params) := BitVec P.countWidth

/-- V_TOT (R7, R130). -/
abbrev Total (P : Params := Config.params) := BitVec P.totalWidth

/-- S_MINIDX and S_MAXIDX (R7, R157). -/
abbrev CellIdx (P : Params := Config.params) := BitVec P.indexWidth

/-- An event counter, CW bits (R29). -/
abbrev Counter (P : Params := Config.params) := BitVec P.counterWidth

/-- The 2-bit encoding of KIND (R16), shown on the port rec_kind (R38). -/
def Kind.code : Kind → BitVec 2
  | .v => 0
  | .m => 1
  | .z => 2

/-! ### Field assembly -/

/-- `hi(x) = x[15:8]` (R75). -/
def hi (x : U16) : Byte := x.extractLsb' 8 8

/-- `lo(x) = x[7:0]` (R75). -/
def lo (x : U16) : Byte := x.extractLsb' 0 8

/-- Byte number `j` of a 32-bit value, 0 the least significant (R69, R75). -/
def byteOf32 (j : Nat) (x : U32) : Byte := x.extractLsb' (8 * j) 8

/-- The byte at buffer offset `o` of the captured bytes of one frame. -/
def byteAt (f : List Byte) (o : Nat) : Byte := f.getD o 0

/-- R67: `{BUF[o], BUF[o+1]}`. -/
def be16 (f : List Byte) (o : Nat) : U16 := byteAt f o ++ byteAt f (o + 1)

/-- R68: `{BUF[o+1], BUF[o]}`. -/
def le16 (f : List Byte) (o : Nat) : U16 := byteAt f (o + 1) ++ byteAt f o

/-- R69: `{BUF[o+3], BUF[o+2], BUF[o+1], BUF[o]}`. -/
def le32 (f : List Byte) (o : Nat) : U32 :=
  (byteAt f (o + 3) ++ byteAt f (o + 2)) ++ (byteAt f (o + 1) ++ byteAt f o)

/-! ### The decoder -/

/-- The frame whose captured bytes (declared length to checksum) are `f`, by the buffer map of its kind: R41 for V, R42 for M, R43 for Z. -/
def decodeFields (n : Nat) (f : List Byte) : Kind → Instr
  | .v => .vframe (byteAt f 0) ((List.range n).map fun i => be16 f (2 * i + 1))
      (le32 f (2 * n + 1)) (le32 f (2 * n + 5)) (byteAt f (2 * n + 9))
  | .m => .mframe (byteAt f 0) (be16 f 1) (byteAt f 3) (be16 f 4) (be16 f 6) (be16 f 8)
      (byteAt f 10) (byteAt f 11)
  | .z => .zframe (byteAt f 0) (byteAt f 1) (le16 f 2)
      ((List.range n).map fun i => le16 f (2 * i + 4)) (byteAt f (2 * n + 4))

/-- Why bytes are no frame. -/
inductive DecodeError where
  /-- the first two bytes are not the marker pair (R60, R71) -/
  | noMarkerPair
  /-- the bytes end before the frame does (R74) -/
  | incomplete
  deriving DecidableEq, Repr

/-- The decoder's answer: a frame and the bytes behind it, or a rejection by name. -/
inductive Decoded where
  | frame (i : Instr) (rest : List Byte)
  | rejected (e : DecodeError)
  deriving DecidableEq, Repr

/-- R60, R71, R74: the marker pair, the command byte, and the number of captured bytes the command implies. -/
def decode (n : Nat) : List Byte → Decoded
  | m0 :: m1 :: cmd :: rest =>
    if m0 = mark ∧ m1 = mark then
      match kindOfCmd cmd with
      | none => .frame (.unknown cmd) rest
      | some k =>
        if rest.length < k.len n then .rejected .incomplete
        else .frame (decodeFields n (rest.take (k.len n)) k) (rest.drop (k.len n))
    else .rejected .noMarkerPair
  | _ => .rejected .incomplete

/-! ### The encoder -/

/-- The kind of a frame, none for UNKNOWN (R71). -/
def Instr.kind? : Instr → Option Kind
  | .vframe _ _ _ _ _ => some .v
  | .mframe _ _ _ _ _ _ _ _ => some .m
  | .zframe _ _ _ _ _ => some .z
  | .unknown _ => none

/-- The opcode of a frame: the byte at wire index 2 (R60). -/
def Instr.cmd : Instr → Byte
  | .vframe _ _ _ _ _ => 0x56
  | .mframe _ _ _ _ _ _ _ _ => 0x57
  | .zframe _ _ _ _ _ => 0x58
  | .unknown cmd => cmd

/-- A 16-bit value, high byte first (R63, R64). -/
def bytesBE16 (x : U16) : List Byte := [hi x, lo x]

/-- A 16-bit value, low byte first (R65). -/
def bytesLE16 (x : U16) : List Byte := [lo x, hi x]

/-- A 32-bit value, low byte first (R63). -/
def bytesLE32 (x : U32) : List Byte := [byteOf32 0 x, byteOf32 1 x, byteOf32 2 x, byteOf32 3 x]

/-- The captured bytes of a frame before its checksum: declared length and field bytes (R63 to R65). -/
def Instr.summed : Instr → List Byte
  | .vframe declared cells wh ah _ =>
    declared :: (cells.flatMap bytesBE16 ++ bytesLE32 wh ++ bytesLE32 ah)
  | .mframe declared eoc mode cur t1 t2 soc _ =>
    declared :: (bytesBE16 eoc ++ [mode] ++ bytesBE16 cur ++ bytesBE16 t1 ++ bytesBE16 t2 ++ [soc])
  | .zframe declared mode cur res _ =>
    declared :: ([mode] ++ bytesLE16 cur ++ res.flatMap bytesLE16)
  | .unknown _ => []

/-- The checksum byte a frame carries; UNKNOWN carries none (R66). -/
def Instr.tail : Instr → List Byte
  | .vframe _ _ _ _ checksum => [checksum]
  | .mframe _ _ _ _ _ _ _ checksum => [checksum]
  | .zframe _ _ _ _ checksum => [checksum]
  | .unknown _ => []

/-- The bytes of a frame in wire order (R60). -/
def encode (i : Instr) : List Byte := mark :: mark :: i.cmd :: (i.summed ++ i.tail)

/-! ### The sum, and the frames with a correct length and checksum -/

/-- The sum modulo 256 of a list of bytes (R120: the plain sum, carries out of bit 7 discarded). -/
def byteSum : List Byte → Byte
  | [] => 0
  | b :: bs => b + byteSum bs

/-- R75's `cs`: "the sum of all preceding bytes of the frame modulo 256". -/
def wireChecksum (i : Instr) : Byte := byteSum (mark :: mark :: i.cmd :: i.summed)

/-- The same frame with the checksum byte replaced. -/
def Instr.withChecksum (cs : Byte) : Instr → Instr
  | .vframe declared cells wh ah _ => .vframe declared cells wh ah cs
  | .mframe declared eoc mode cur t1 t2 soc _ => .mframe declared eoc mode cur t1 t2 soc cs
  | .zframe declared mode cur res _ => .zframe declared mode cur res cs
  | .unknown cmd => .unknown cmd

/-- DECL_x = LEN_x + 3 (R7, R62). DESIGN CHOICE: where it exceeds a byte (N of 122 or more), its low 8 bits (log entry 17). -/
def Kind.declared (n : Nat) (k : Kind) : Byte := BitVec.ofNat 8 (k.len n + 3)

/-- The frame with its checksum byte made right. -/
def Instr.sealed (i : Instr) : Instr := i.withChecksum (wireChecksum i)

/-- R75: `V(c0, ..., c[N-1]; wh; ah)`. -/
def frameV (cells : List U16) (wh ah : U32) : Instr :=
  (Instr.vframe (Kind.declared cells.length .v) cells wh ah 0).sealed

/-- R75: `M(eoc, mode, cur, t1, t2, soc)`. -/
def frameM (eoc : U16) (mode : Byte) (cur t1 t2 : U16) (soc : Byte) : Instr :=
  (Instr.mframe (Kind.declared 0 .m) eoc mode cur t1 t2 soc 0).sealed

/-- R75: `Z(mode, cur; r0, ..., r[N-1])`. -/
def frameZ (mode : Byte) (cur : U16) (res : List U16) : Instr :=
  (Instr.zframe (Kind.declared res.length .z) mode cur res 0).sealed

/-! ### The opcode table's words -/

/-- The `k` bytes of a pattern of `8 * k` bits, "the first wire byte most significant" (R71). -/
def patternBytes : Nat → Nat → List Byte
  | 0, _ => []
  | k + 1, w => BitVec.ofNat 8 (w / 256 ^ k) :: patternBytes k w

/-- The wire bytes a row of the opcode table stands for: the row's bits, then zeros up to the longest frame, 3 + BUFSZ bytes (log entry 6). -/
def tableBytes (nbits w : Nat) : List Byte :=
  patternBytes (nbits / 8) w ++ List.replicate (3 + Config.params.bufSize - nbits / 8) 0

/-- What the decoder reads from an instruction word numbered as spec/opcode_table.json numbers it, for the configuration N = 16 of State.reset. -/
def decodeTableWord (nbits w : Nat) : Option Instr :=
  match decode 16 (tableBytes nbits w) with
  | .frame i _ => some i
  | .rejected _ => none

end Sys2Proof
end

