-- ==== Sys2Proof/Machine/State.lean ====
section
/-! DEFINITION. The state of the block: every register of spec/10_state.md R10, the interface types of R35 to R38, the outcomes of a step, and the state right after reset. -/

namespace Sys2Proof.Machine

/-- PHASE (R13). -/
inductive Phase where
  /-- HUNT = 0: scanning for two consecutive marker bytes -/
  | hunt
  /-- CMD = 1: the next byte is the command identifier -/
  | cmd
  /-- PAYLOAD = 2: capturing LEN bytes into BUF -/
  | payload
  deriving DecidableEq, Repr

/-- The five error conditions (R165, R166). -/
inductive ErrKind where
  /-- FramingError, code 1 (R168) -/
  | framing
  /-- UnknownCommand, code 2 (R169) -/
  | unknownCommand
  /-- TruncatedFrame, code 3 (R170) -/
  | truncated
  /-- ChecksumMismatch, code 4 (R171) -/
  | checksumMismatch
  /-- ConfigurationError, code 5, fatal (R172) -/
  | configuration
  deriving DecidableEq, Repr

/-- The input events (R35). -/
inductive Event where
  /-- Reset(n, k, en) -/
  | reset (n k : Byte) (en : Bool)
  /-- Rx(b): one byte from the Byte Source -/
  | rx (b : Byte)
  /-- Trunc: the stream ended or timed out -/
  | trunc
  deriving DecidableEq, Repr

/-- The input ports as sampled at one rising clock edge (R36). -/
structure Pins where
  rst : Bool
  cfgN : Byte
  cfgK : Byte
  cfgCsumEn : Bool
  rxValid : Bool
  rxData : Byte
  rxTrunc : Bool
  deriving DecidableEq, Repr

/-- The output events (R37). -/
inductive OutEvent where
  /-- Rec(kind, byp) -/
  | record (kind : Kind) (byp : Bool)
  /-- Err(code, cmd, a, b) -/
  | error (code : ErrCode) (cmd a b : Byte)
  deriving DecidableEq, Repr

/-- The spread registers S_* (R22), part of the V group. -/
structure Spread (P : Params := Config.params) where
  minIdx : CellIdx P
  maxIdx : CellIdx P
  vMin : U16
  vMax : U16
  diff : U16
  deriving DecidableEq, Repr

/-- The V record registers (R21, R22). `cells` holds V_CELL[0 .. N-1]. -/
structure VRecord (P : Params := Config.params) where
  cells : List U16
  wh : U32
  ah : U32
  tot : Total P
  spread : Spread P
  deriving DecidableEq, Repr

/-- The M record registers (R23). -/
structure MRecord where
  eoc : U16
  mode : Byte
  cur : U16
  t1 : U16
  t2 : U16
  soc : Byte
  deriving DecidableEq, Repr

/-- The Z record registers (R24). `res` holds Z_RES[0 .. N-1]. -/
structure ZRecord where
  mode : Byte
  cur : U16
  res : List U16
  deriving DecidableEq, Repr

/-- BUF: the offsets that hold a value, strictly rising, each with its byte. An unlisted offset holds no value (R34, R39; log entry 4). -/
abbrev Memory := List Host.Cell

/-- "The complete state of the block is the following registers, and nothing else. A model's state type has exactly these components" (R10): the block's state type, for the parameters `P`. A group of result registers and its valid bit are one Option: the valid bit is its tag, and while it is 0 "its other registers hold no value" (R20). KIND and LEN are absent until the dispatcher first latches them (R39). -/
structure Registers (P : Params := Config.params) where
  /-- CFG_N (R28) -/
  cfgN : Byte
  /-- CFG_K (R28) -/
  cfgK : Byte
  /-- CFG_CSUM_EN (R28) -/
  cfgCsumEn : Bool
  /-- RUN (R12): true operating, false HALT -/
  run : Bool
  /-- PHASE (R13) -/
  phase : Phase
  /-- CNT (R14) -/
  cnt : Count P
  /-- LAST (R11) -/
  last : Byte
  /-- CMDR (R16) -/
  cmdr : Byte
  /-- KIND (R16), absent at reset (R39) -/
  kind : Option Kind
  /-- LEN (R16), absent at reset (R39) -/
  len : Option (Count P)
  /-- SUM (R18) -/
  sum : Byte
  /-- BUF (R17) -/
  buf : Memory
  /-- V_VALID, V_CELL, V_WH, V_AH, V_TOT, S_* (R20 to R22) -/
  vRec : Option (VRecord P)
  /-- M_VALID, M_EOC, M_MODE, M_CUR, M_T1, M_T2, M_SOC (R20, R23) -/
  mRec : Option MRecord
  /-- Z_VALID, Z_MODE, Z_CUR, Z_RES (R20, R24) -/
  zRec : Option ZRecord
  /-- ERR_CODE (R30) -/
  errCode : ErrCode
  /-- ERR_CMD (R30) -/
  errCmd : Byte
  /-- ERR_A (R30) -/
  errA : Byte
  /-- ERR_B (R30) -/
  errB : Byte
  /-- CNT_OK (R29) -/
  cntOk : Counter P
  /-- CNT_FRAMING (R29) -/
  cntFraming : Counter P
  /-- CNT_UNKNOWN (R29) -/
  cntUnknown : Counter P
  /-- CNT_TRUNC (R29) -/
  cntTrunc : Counter P
  /-- CNT_CSUM (R29) -/
  cntCsum : Counter P
  /-- CNT_BYP (R29) -/
  cntByp : Counter P
  deriving DecidableEq, Repr

/-- The block together with its environment, which is no state of the block (R10): the machine the host's `step : State → …` runs. Its registers are `toRegisters`; the input stream (R35) and the output events (R37) stand beside them, since that step takes no argument (log entries 1, 2). -/
structure State (P : Params := Config.params) extends Registers P where
  /-- The environment's: the clock edges the environment will still present, oldest first (R35, R36; log entry 1). -/
  input : List Pins
  /-- The environment's: the output event of the last step, which drives rec_valid and err_valid (R37, R38; log entry 2). -/
  out : Option OutEvent
  /-- The environment's: every output event so far, oldest first (R37; log entry 2). -/
  sent : List OutEvent
  deriving DecidableEq, Repr

/-- The output ports (R38). A port of a register that holds no value shows `none`: "a sink that reads them: any value" (spec/93 U13). -/
structure Ports (P : Params := Config.params) where
  recValid : Bool
  /-- meaningful when recValid -/
  recKind : Option (BitVec 2)
  /-- meaningful when recValid -/
  recByp : Option Bool
  errValid : Bool
  errCode : ErrCode
  errCmd : Byte
  errA : Byte
  errB : Byte
  halted : Bool
  /-- "every register of rules R20 to R30" has its port (R31): the configuration registers of R28 among them -/
  cfgN : Byte
  cfgK : Byte
  cfgCsumEn : Bool
  vValid : Bool
  mValid : Bool
  zValid : Bool
  vRegs : Option (VRecord P)
  mRegs : Option MRecord
  zRegs : Option ZRecord
  cntOk : Counter P
  cntFraming : Counter P
  cntUnknown : Counter P
  cntTrunc : Counter P
  cntCsum : Counter P
  cntByp : Counter P
  deriving DecidableEq, Repr

/-- Why the model stops where the block has no behaviour to give. -/
inductive Fault where
  /-- Raised by a capture at a buffer offset at or above BUFSZ, an address R8 says does not exist ("0 ≤ addr < BUFSZ"). No run reaches it (R14: CNT < LEN). Safe: the model stops. -/
  | bufferRange
  deriving DecidableEq, Repr

/-- Why the model gives no meaning. -/
inductive Refusal where
  /-- Raised by exec's arm of an instruction without a meaning; no arm raises it. Safe: the model stops. -/
  | notModelled (mnemonic : String)
  /-- Raised by a clock edge with rst = 0, rx_valid = 1 and rx_trunc = 1: "outside the interface contract and a model refuses the input" (R36, R176, spec/93 U6). Safe: the model stops. -/
  | rxWithTrunc
  deriving DecidableEq, Repr

/-- The answer of a step. -/
abbrev Outcome (P : Params := Config.params) := Host.Outcome (State P) Fault Refusal

/-- The registers right after Reset(n, k, en) with a legal configuration, by the table of R39. -/
def Registers.reset {P : Params} (n k : Byte) (en : Bool) : Registers P where
  cfgN := n
  cfgK := k
  cfgCsumEn := en
  run := true
  phase := .hunt
  cnt := 0
  last := 0x00
  cmdr := 0x00
  kind := none
  len := none
  sum := 0x00
  buf := []
  vRec := none
  mRec := none
  zRec := none
  errCode := 0
  errCmd := 0x00
  errA := 0x00
  errB := 0x00
  cntOk := 0
  cntFraming := 0
  cntUnknown := 0
  cntTrunc := 0
  cntCsum := 0
  cntByp := 0

/-- The state right after the event Reset(16, 16, 1), by the table of R39: the start state of spec/95_test_vectors.md. Which configuration the run starts with is the model's choice (log entry 3). -/
def State.reset : State where
  toRegisters := Registers.reset 16 16 true
  input := []
  out := none
  sent := []

end Sys2Proof.Machine
end

