-- ==== Sys2Proof/Machine/Flags.lean ====
section
/-! DEFINITION. The one-bit and 8-bit judgements of the block (it has no condition flags): the running sum and the checksum verdict (spec/42_checksum.md), the declared-length check (R106), the legality of a configuration (R6), the error codes (R166). -/

namespace Sys2Proof.Machine

/-- R115: the load value `(0x24 + 0x24 + b) mod 256`. -/
def prefixSum (cmd : Byte) : Byte := mark + mark + cmd

/-- R116: `SUM <- (SUM + b) mod 256` when `CNT < LEN - 1`, else unchanged: the last byte is not added. -/
def accumulate {P : Params} (sum b : Byte) (cnt len : Count P) : Byte :=
  if cnt.toNat + 1 < len.toNat then sum + b else sum

/-- What the checksum validator says. -/
inductive Verdict where
  /-- the frame passes, with the bypass bit of R119 -/
  | pass (byp : Bool)
  /-- ChecksumMismatch (R118) -/
  | mismatch
  deriving DecidableEq, Repr

/-- R118 with verification enabled, R119 with it disabled. -/
def verdict (csumEn : Bool) (sum embedded : Byte) : Verdict :=
  if csumEn then (if sum = embedded then .pass false else .mismatch)
  else .pass (sum != embedded)

/-- R62, R106: the declared-length byte equals LEN + 3, compared as integers. -/
def lengthOk {P : Params} (declared : Byte) (len : Count P) : Bool := declared.toNat == len.toNat + 3

/-- LEN + 3, the declared length a frame must carry, as the information byte of FramingError (R106, R167). DESIGN CHOICE: where it exceeds a byte (a supported N of 122 or more), its low 8 bits (log entry 17). -/
def expectedDeclared {P : Params} (len : Count P) : Byte := BitVec.ofNat 8 (len.toNat + 3)

/-- R6: CFG_N is supported and 1 ≤ CFG_K ≤ CFG_N. -/
def legalConfig (P : Params) (n k : Byte) : Bool :=
  P.supportedN.contains n && decide (1 ≤ k.toNat) && decide (k.toNat ≤ n.toNat)

/-- R166: the codes of ERR_CODE. -/
def ErrKind.code : ErrKind → ErrCode
  | .framing => 1
  | .unknownCommand => 2
  | .truncated => 3
  | .checksumMismatch => 4
  | .configuration => 5

/-- R13: the 2-bit encoding of PHASE. -/
def Phase.code : Phase → BitVec 2
  | .hunt => 0
  | .cmd => 1
  | .payload => 2

/-- R13: DOC1's `recording` flag, the derived view `REC = (PHASE ≠ HUNT)`. -/
def State.recording {P : Params} (s : State P) : Bool := s.phase != .hunt

end Sys2Proof.Machine
end

