-- ==== Sys2Proof/Machine/Ops.lean ====
section
/-! DEFINITION. The shared operations: BUF, the return to the home state, output events, counters, error entry (R178), delivery of a record, completion (R107), the Reset event (R190, R193), the pins (R36, R38). -/

namespace Sys2Proof.Machine

variable {P : Params}

/-! ### BUF -/

/-- The byte at a buffer offset, none where the offset holds no value (R34). -/
def Memory.read : Memory → Nat → Option Byte
  | [], _ => none
  | (a, b) :: m, x => if a = x then some b else Memory.read m x

/-- The buffer with offset `x` set to `v`, its cells kept strictly rising. -/
def Memory.write : Memory → Nat → Byte → Memory
  | [], x, v => [(x, v)]
  | (a, b) :: m, x, v =>
    if x < a then (x, v) :: (a, b) :: m
    else if x = a then (x, v) :: m
    else (a, b) :: Memory.write m x v

/-- Offsets from `low` on, strictly rising, all below `size`. -/
def Memory.risingFrom (size : Nat) : Nat → Memory → Bool
  | _, [] => true
  | low, (a, _) :: m => decide (low ≤ a) && decide (a < size) && Memory.risingFrom size (a + 1) m

/-- The canonical form of BUF, `size` being BUFSZ. An unlisted offset holds no value, so no entry can repeat what an unlisted one reads as. -/
def Memory.wf (m : Memory) (size : Nat := Config.params.bufSize) : Bool := Memory.risingFrom size 0 m

/-- BUF replaced. -/
def State.setBuf (m : Memory) (s : State P) : State P := { s with buf := m }

/-- `MemWrite(addr, 1, v)` (R8). An offset at or above BUFSZ does not exist (log entry 10). -/
def storeByte (addr : Nat) (v : Byte) (s : State P) : Outcome P :=
  if addr < P.bufSize then .next (s.setBuf (s.buf.write addr v)) else .fault .bufferRange

/-! ### Reading registers that may hold no value -/

/-- LEN; any value while it holds none (R39, spec/93 U13; log entry 4). -/
def State.curLen (s : State P) : Count P := s.len.getD (BitVec.ofNat _ Config.anyLen)

/-- KIND; any value while it holds none (R39, spec/93 U13; log entry 4). -/
def State.curKind (s : State P) : Kind := s.kind.getD Config.anyKind

/-! ### The parts of a step's effect -/

/-- "home": `PHASE <- HUNT, LAST <- 0x00, CNT <- 0` (R108, R95, R180). -/
def State.home (s : State P) : State P := { s with phase := .hunt, last := 0x00, cnt := 0 }

/-- `emit`: the step's one output event (R37). -/
def State.emit (e : OutEvent) (s : State P) : State P := { s with out := some e, sent := s.sent ++ [e] }

/-- The error registers (R30). -/
def State.setError (code : ErrCode) (cmd a b : Byte) (s : State P) : State P :=
  { s with errCode := code, errCmd := cmd, errA := a, errB := b }

/-- The counter of an error condition, modulo 2^CW (R29, R166). ConfigurationError has none. -/
def State.countError (e : ErrKind) (s : State P) : State P :=
  match e with
  | .framing => { s with cntFraming := s.cntFraming + 1 }
  | .unknownCommand => { s with cntUnknown := s.cntUnknown + 1 }
  | .truncated => { s with cntTrunc := s.cntTrunc + 1 }
  | .checksumMismatch => { s with cntCsum := s.cntCsum + 1 }
  | .configuration => s

/-- R107 step 4: CNT_OK, and CNT_BYP if the checksum was bypassed. -/
def State.countDelivered (byp : Bool) (s : State P) : State P :=
  { s with cntOk := s.cntOk + 1, cntByp := if byp then s.cntByp + 1 else s.cntByp }

/-- Error entry, R178: `raise X(cmd, a, b)` for a per-frame condition. Nothing is saved and nothing returns (R179); the next event finds the home state (R180). -/
def raiseError (e : ErrKind) (cmd a b : Byte) (s : State P) : State P :=
  (((s.setError e.code cmd a b).countError e).emit (.error e.code cmd a b)).home

/-- R107 steps 4 to 6: the counters, `emit Rec(KIND, byp)`, home. -/
def deliver (k : Kind) (byp : Bool) (s : State P) : State P :=
  ((s.countDelivered byp).emit (.record k byp)).home

/-- complete(), R107, for a frame of kind `k` that carries the given declared-length byte (BUF[0]) and checksum byte (BUF[LEN-1]); `write` is the decoder of its kind (step 3). The length check comes first and is not gated by CFG_CSUM_EN (R106, R175). A block in HALT takes no frame (R183; log entry 7). -/
def complete (k : Kind) (declared checksum : Byte) (write : State P → State P) (s : State P) : Outcome P :=
  if s.run then
    if lengthOk declared s.curLen then
      match verdict s.cfgCsumEn s.sum checksum with
      | .mismatch => .next (raiseError .checksumMismatch s.cmdr s.sum checksum s)
      | .pass byp => .next (deliver k byp (write s))
    else .next (raiseError .framing s.cmdr declared (expectedDeclared s.curLen) s)
  else .next s

/-! ### The Reset event -/

/-- Every register at its value in R39 for a legal configuration, with the event's arguments latched. The pending input and the sequence of events sent are the environment's and stay. -/
def resetRegisters (n k : Byte) (en : Bool) (s : State P) : State P :=
  { toRegisters := Registers.reset n k en, input := s.input, out := none, sent := s.sent }

/-- The Reset event, R190: an illegal configuration gives ConfigurationError and HALT, R193. -/
def applyReset (n k : Byte) (en : Bool) (s : State P) : State P :=
  if legalConfig P n k then resetRegisters n k en s
  else
    (({ resetRegisters n k en s with run := false }).setError ErrKind.configuration.code 0x00 n k).emit
      (.error ErrKind.configuration.code 0x00 n k)

/-! ### The pins -/

/-- What one clock edge is (R36). -/
inductive Sample where
  /-- not an event -/
  | idle
  | event (e : Event)
  /-- rx_valid and rx_trunc together: outside the contract -/
  | outsideContract
  deriving DecidableEq, Repr

/-- R36, R176: rst wins; then rx_valid and rx_trunc, never both. -/
def Pins.sample (p : Pins) : Sample :=
  if p.rst then .event (.reset p.cfgN p.cfgK p.cfgCsumEn)
  else if p.rxValid && p.rxTrunc then .outsideContract
  else if p.rxValid then .event (.rx p.rxData)
  else if p.rxTrunc then .event .trunc
  else .idle

/-- An edge that carries no event. -/
def Pins.idle : Pins :=
  { rst := false, cfgN := 0, cfgK := 0, cfgCsumEn := false, rxValid := false, rxData := 0, rxTrunc := false }

/-- An edge that carries the given event (R36, R76). -/
def Event.pins : Event → Pins
  | .reset n k en => { Pins.idle with rst := true, cfgN := n, cfgK := k, cfgCsumEn := en }
  | .rx b => { Pins.idle with rxValid := true, rxData := b }
  | .trunc => { Pins.idle with rxTrunc := true }

/-- The edge the next step samples; an edge without event when the environment presents nothing more (R35; log entry 9). -/
def State.nextPins (s : State P) : Pins := s.input.headD Pins.idle

/-- The edge is consumed; the strobes of the step before go back to 0 (R38, R50). -/
def State.consume (s : State P) : State P := { s with input := s.input.tail, out := none }

/-- The output ports (R38). -/
def State.ports (s : State P) : Ports P where
  recValid := match s.out with
    | some (.record _ _) => true
    | _ => false
  recKind := match s.out with
    | some (.record k _) => some k.code
    | _ => none
  recByp := match s.out with
    | some (.record _ byp) => some byp
    | _ => none
  errValid := match s.out with
    | some (.error _ _ _ _) => true
    | _ => false
  errCode := s.errCode
  errCmd := s.errCmd
  errA := s.errA
  errB := s.errB
  halted := !s.run
  cfgN := s.cfgN
  cfgK := s.cfgK
  cfgCsumEn := s.cfgCsumEn
  vValid := s.vRec.isSome
  mValid := s.mRec.isSome
  zValid := s.zRec.isSome
  vRegs := s.vRec
  mRegs := s.mRec
  zRegs := s.zRec
  cntOk := s.cntOk
  cntFraming := s.cntFraming
  cntUnknown := s.cntUnknown
  cntTrunc := s.cntTrunc
  cntCsum := s.cntCsum
  cntByp := s.cntByp

end Sys2Proof.Machine
end

