-- ==== Sys2Proof/Machine/Operands.lean ====
section
/-! DEFINITION. The operands of a frame: its captured bytes, read from BUF one byte at a time at completion (R49, R53), and the frame they decode to. The assembly of multi-byte fields is Decode.lean's (R67 to R69). -/

namespace Sys2Proof.Machine

variable {P : Params}

/-- `MemRead(addr, 1)` (R8); any value where the offset holds none (R34, spec/93 U13; log entry 4). -/
def bufByte (s : State P) (o : Nat) : Byte := (s.buf.read o).getD (Config.anyByte o)

/-- `MemRead(0, n)`: BUF[0 .. n-1] in ascending offset order (R8). -/
def captured (s : State P) (n : Nat) : List Byte := (List.range n).map (bufByte s)

/-- The frame in BUF: "case KIND of", each field at its fixed offset (R107 step 3, R41 to R43). -/
def capturedFrame (s : State P) : Instr :=
  decodeFields s.cfgN.toNat (captured s (s.curKind.len s.cfgN.toNat)) s.curKind

end Sys2Proof.Machine
end

