-- ==== Sys2Proof/Machine/Impedance.lean ====
section
/-! DEFINITION. ZFRAME: the impedance decoder (spec/45_decode_impedance.md) and the meaning of the frame. -/

namespace Sys2Proof.Machine

variable {P : Params}

/-- The Z group written as a whole, Z_VALID <- 1 (R20, R107 step 3). -/
def State.writeZ (r : ZRecord) (s : State P) : State P := { s with zRec := some r }

/-- ZFRAME (R145): completion, mode, current and the N resistances stored as they are (R146 to R148, R70). -/
def execZframe (declared mode : Byte) (cur : U16) (res : List U16) (checksum : Byte) (s : State P) : Outcome P :=
  complete .z declared checksum (State.writeZ { mode := mode, cur := cur, res := res }) s

end Sys2Proof.Machine
end

