-- ==== Sys2Proof/Machine/Measurement.lean ====
section
/-! DEFINITION. MFRAME: the measurement decoder (spec/44_decode_measurement.md) and the meaning of the frame. -/

namespace Sys2Proof.Machine

variable {P : Params}

/-- The M group written as a whole, M_VALID <- 1 (R20, R107 step 3). -/
def State.writeM (r : MRecord) (s : State P) : State P := { s with mRec := some r }

/-- MFRAME (R135): completion, the six fields stored as they are (R136 to R140, R70). -/
def execMframe (declared : Byte) (eoc : U16) (mode : Byte) (cur t1 t2 : U16) (soc checksum : Byte)
    (s : State P) : Outcome P :=
  complete .m declared checksum
    (State.writeM { eoc := eoc, mode := mode, cur := cur, t1 := t1, t2 := t2, soc := soc }) s

end Sys2Proof.Machine
end

