-- ==== Sys2Proof/Machine/UnknownCommand.lean ====
section
/-! DEFINITION. UNKNOWN: a command byte that selects no frame kind (spec/41_dispatch_reader.md R102). -/

namespace Sys2Proof.Machine

variable {P : Params}

/-- The command latch, `CMDR <- b`, "for known and unknown commands alike" (R100). -/
def State.latchCmd (b : Byte) (s : State P) : State P := { s with cmdr := b }

/-- UNKNOWN (R100, R102): CMDR is latched, then `raise UnknownCommand(b, 0x00, 0x00)`. A block in HALT takes no command (R183; log entry 7). -/
def execUnknown (cmd : Byte) (s : State P) : Outcome P :=
  if s.run then .next (raiseError .unknownCommand cmd 0x00 0x00 (s.latchCmd cmd)) else .next s

end Sys2Proof.Machine
end

