-- ==== Sys2Proof/Machine/Spread.lean ====
section
/-! DEFINITION. The spread calculator (spec/46_spread.md). -/

namespace Sys2Proof.Machine

/-- The scan's running values: vmin, imin, vmax, imax (R155). -/
structure Scan where
  vmin : U16
  imin : Nat
  vmax : U16
  imax : Nat
  deriving DecidableEq, Repr

/-- `vmin <- 0xFFFF; imin <- 0; vmax <- 0x0000; imax <- 0` (R155, the spec's decision D15). -/
def scanStart : Scan := { vmin := 0xFFFF, imin := 0, vmax := 0x0000, imax := 0 }

/-- The loop body of R155 for cell `i` of value `v`: two independent comparisons, `<=` and `>=`, so the last of equal extremes wins (R158). -/
def scanCell (i : Nat) (v : U16) (a : Scan) : Scan where
  vmin := if v ≤ a.vmin then v else a.vmin
  imin := if v ≤ a.vmin then i else a.imin
  vmax := if v ≥ a.vmax then v else a.vmax
  imax := if v ≥ a.vmax then i else a.imax

/-- The loop of R155 over the cells from index `i` on. -/
def scanFrom (i : Nat) : List U16 → Scan → Scan
  | [], a => a
  | v :: vs, a => scanFrom (i + 1) vs (scanCell i v a)

/-- R155: the scan over the first K cells; `S_DIFF <- vmax - vmin` (R159). -/
def spreadOf (k : Nat) (cells : List U16) (P : Params := Config.params) : Spread P :=
  let a := scanFrom 0 (cells.take k) scanStart
  { minIdx := BitVec.ofNat _ a.imin, maxIdx := BitVec.ofNat _ a.imax,
    vMin := a.vmin, vMax := a.vmax, diff := a.vmax - a.vmin }

end Sys2Proof.Machine
end

