-- ==== Sys2Proof/Machine/Voltage.lean ====
section
/-! DEFINITION. VFRAME: the cell-voltage decoder (spec/43_decode_voltage.md) and the meaning of the frame. -/

namespace Sys2Proof.Machine

variable {P : Params}

/-- R129, R130: the exact sum of all N cells, in TW bits. -/
def totalOf (cells : List U16) (P : Params := Config.params) : Total P := BitVec.ofNat _ (cells.map BitVec.toNat).sum

/-- The V record of a frame for K wired cells (R125, then R155). -/
def vRecordOf (k : Nat) (cells : List U16) (wh ah : U32) (P : Params := Config.params) : VRecord P where
  cells := cells
  wh := wh
  ah := ah
  tot := totalOf cells P
  spread := spreadOf k cells P

/-- The V group written as a whole, V_VALID <- 1 (R20, R107 step 3). -/
def State.writeV (r : VRecord P) (s : State P) : State P := { s with vRec := some r }

/-- VFRAME (R125): completion, the cell-voltage decoder, the spread over the first CFG_K cells. -/
def execVframe (declared : Byte) (cells : List U16) (wh ah : U32) (checksum : Byte) (s : State P) : Outcome P :=
  complete .v declared checksum (State.writeV (vRecordOf s.cfgK.toNat cells wh ah P)) s

end Sys2Proof.Machine
end

