-- ==== Sys2Proof/Machine/Dispatch.lean ====
section
/-! DEFINITION. One arm per frame of spec/opcode_table.json. -/

namespace Sys2Proof.Machine

/-- The meaning of a frame: what the step that consumes its last byte does (R104, R107). -/
def exec (i : Instr) (s : State) : Host.Outcome State Fault Refusal :=
  match i with
  | .vframe declared cells wh ah checksum => Sys2Proof.Machine.execVframe declared cells wh ah checksum s
  | .mframe declared eoc mode cur t1 t2 soc checksum => Sys2Proof.Machine.execMframe declared eoc mode cur t1 t2 soc checksum s
  | .zframe declared mode cur res checksum => Sys2Proof.Machine.execZframe declared mode cur res checksum s
  | .unknown cmd => Sys2Proof.Machine.execUnknown cmd s

end Sys2Proof.Machine
end

