-- ==== Sys2Proof/Machine/Execute.lean ====
section
/-! DEFINITION. The meaning of a frame for a block of any parameters (spec/00_scope.md R7, spec/92_eei_decisions.md D30). Dispatch.lean's `exec` is this at the default arguments, in the host's form (Laws/Ops.lean execute_eq_exec). -/

namespace Sys2Proof.Machine

/-- What the step that consumes a frame's last byte does (R104, R107). -/
def execute {P : Params} (i : Instr) (s : State P) : Outcome P :=
  match i with
  | .vframe declared cells wh ah checksum => execVframe declared cells wh ah checksum s
  | .mframe declared eoc mode cur t1 t2 soc checksum => execMframe declared eoc mode cur t1 t2 soc checksum s
  | .zframe declared mode cur res checksum => execZframe declared mode cur res checksum s
  | .unknown cmd => execUnknown cmd s

end Sys2Proof.Machine
end

