-- ==== Sys2Proof/Machine/Sequencer.lean ====
section
/-! DEFINITION. One input event (R35): the synchronizer (spec/40_synchronizer.md), the dispatcher and the frame reader (spec/41_dispatch_reader.md, whole transition table R108). A frame runs, through `execute`, in the event that brings its last byte. -/

namespace Sys2Proof.Machine

variable {P : Params}

/-- Rx(b) in HUNT: detection R92, scanning R91. -/
def onRxHunt (b : Byte) (s : State P) : State P :=
  if s.last = mark ∧ b = mark then { s with last := 0x00, phase := .cmd } else { s with last := b }

/-- R101: a known command is latched and capture begins. -/
def latchKnown (k : Kind) (b : Byte) (s : State P) : State P :=
  { s.latchCmd b with kind := some k, len := some (BitVec.ofNat _ (k.len s.cfgN.toNat)), cnt := 0, sum := prefixSum b, phase := .payload }

/-- Rx(b) in CMD: R100, then R101 or the frame UNKNOWN (R102). -/
def onRxCmd (b : Byte) (s : State P) : Outcome P :=
  match kindOfCmd b with
  | some k => .next (latchKnown k b s)
  | none => execute (.unknown b) s

/-- The sum and the count after a captured byte (R104, R116). -/
def State.countByte (b : Byte) (s : State P) : State P :=
  { s with sum := accumulate s.sum b s.cnt s.curLen, cnt := s.cnt + 1 }

/-- Rx(b) in PAYLOAD, R104: store, sum, count, and run the frame when CNT reaches LEN. -/
def onRxPayload (b : Byte) (s : State P) : Outcome P :=
  match storeByte s.cnt.toNat b s with
  | .next t =>
    let u := t.countByte b
    if u.cnt = u.curLen then execute (capturedFrame u) u else .next u
  | .fault f => .fault f
  | .refused r => .refused r

/-- Rx(b) with RUN = 1, by phase. -/
def onRx (b : Byte) (s : State P) : Outcome P :=
  match s.phase with
  | .hunt => .next (onRxHunt b s)
  | .cmd => onRxCmd b s
  | .payload => onRxPayload b s

/-- Trunc with RUN = 1, by phase: R93, R103, R105. DESIGN CHOICE: where CNT or LEN exceeds a byte (a supported N of 123 or more) the information bytes are its low 8 bits; the spec does not say what they then hold (log entry 17). -/
def onTrunc (s : State P) : State P :=
  match s.phase with
  | .hunt => s
  | .cmd => raiseError .truncated 0x00 0x00 0x00 s
  | .payload => raiseError .truncated s.cmdr (s.cnt.setWidth 8) (s.curLen.setWidth 8) s

/-- One input event. Reset works in any state (R173, R190); in HALT every other event is consumed with no effect (R183). -/
def onEvent (e : Event) (s : State P) : Outcome P :=
  match e with
  | .reset n k en => .next (applyReset n k en s)
  | .rx b => if s.run then onRx b s else .next s
  | .trunc => .next (if s.run then onTrunc s else s)

/-- One clock edge: an event, no event, or an input the model refuses (R36). -/
def onPins (p : Pins) (s : State P) : Outcome P :=
  match p.sample with
  | .idle => .next s
  | .event e => onEvent e s
  | .outsideContract => .refused .rxWithTrunc

/-- One step of the block for any parameters: sample the next edge, consume it, and do what it says (R35, R36). -/
def clockEdge (s : State P) : Outcome P := onPins s.nextPins s.consume

/-- The state after the given bytes have been received one by one, none of them the last of a frame that faults. -/
def receive : List Byte → State P → State P
  | [], s => s
  | b :: bs, s =>
    match onEvent (.rx b) s with
    | .next t => receive bs t
    | .fault _ => s
    | .refused _ => s

/-- The state in which the frame at the head of `bs` waits for its last byte: scanning starts afresh, all its bytes but the last have been received, and the next edge brings the last (log entry 5). Bytes that are no frame are presented as they are. -/
def placeFrame (bs : List Byte) (s : State P) : State P :=
  match decode s.cfgN.toNat bs with
  | .frame i _ =>
    let t := receive (encode i).dropLast s.home
    { t with input := (Event.rx ((encode i).getLastD 0)).pins :: s.input }
  | .rejected _ => { s.home with input := bs.map (fun b => (Event.rx b).pins) ++ s.input }

end Sys2Proof.Machine
end

