-- ==== Sys2Proof/Machine/Step.lean ====
section
/-! DEFINITION. One step of the machine is one clock edge of R36, that is one input event of R35 (or none). -/

namespace Sys2Proof.Machine

/-- One clock edge of the block with the default parameters. -/
def step (s : State) : Host.Outcome State Fault Refusal := clockEdge s

/-- `s` with the table word's frame received but for its last byte, which the next edge brings: the next step runs the frame (log entry 5). -/
def State.withFetchWord (s : State) (nbits w : Nat) : State := placeFrame (tableBytes nbits w) s

end Sys2Proof.Machine
end

