-- ==== Sys2Proof/Machine/Scale.lean ====
section
/-! DEFINITION. The fixed scale of every result register (spec/10_state.md R25) and the physical value it stands for, an exact rational (spec/00_scope.md R9). No step computes with a scale: the registers hold the unscaled integers (R70). -/

namespace Sys2Proof.Machine

/-- The result registers (R25). -/
inductive ResultReg where
  | vCell | vTot | vWh | vAh | sVmin | sVmax | sDiff | sMinIdx | sMaxIdx
  | mEoc | mMode | mCur | mT1 | mT2 | mSoc | zRes | zMode | zCur
  deriving DecidableEq, Repr

/-- The units DOC1 names (R25); `notNamed` where it names none (spec/91 N6; log entry 14). -/
inductive Quantity where
  | volt | millivolt | wattHour | ampHour | milliohm | percent | cellIndex | enumerationCode | notNamed
  deriving DecidableEq, Repr

/-- The scale divisor of R25; none for Z_CUR, to which no scale is attached (the spec's decision D13). -/
def ResultReg.divisor : ResultReg → Option Nat
  | .vCell | .vTot | .vWh | .vAh | .sVmin | .sVmax | .mEoc => some 1000
  | .mCur | .mT1 | .mT2 | .zRes => some 10
  | .sDiff | .sMinIdx | .sMaxIdx | .mMode | .mSoc | .zMode => some 1
  | .zCur => none

/-- The unit of the scaled value (R25). -/
def ResultReg.unit : ResultReg → Quantity
  | .vCell | .vTot | .sVmin | .sVmax | .mEoc => .volt
  | .vWh => .wattHour
  | .vAh => .ampHour
  | .sDiff => .millivolt
  | .sMinIdx | .sMaxIdx => .cellIndex
  | .mMode | .zMode => .enumerationCode
  | .mSoc => .percent
  | .zRes => .milliohm
  | .mCur | .mT1 | .mT2 | .zCur => .notNamed

/-- The physical value of a raw integer: "raw / 1000 or raw / 10 as an exact rational number" (R9). -/
def ResultReg.physical (r : ResultReg) (raw : Nat) : Option Rat := r.divisor.map fun d => (raw : Rat) / (d : Rat)

end Sys2Proof.Machine
end

