-- ==== Sys2Proof/Safety.lean ====
section
/-! DEFINITION. The invariants of the block (spec/10_state.md R15 and the rules named below) and the vocabulary the statements are written in. -/

namespace Sys2Proof.Machine

/-- `s` is in phase PAYLOAD's latched form for the kind `k`: CMDR, KIND and LEN "are the values rule R101 gives for CMDR" (R15). -/
def State.latched (k : Kind) (s : State) : Prop :=
  s.cmdr = k.cmd ∧ s.kind = some k ∧ s.len = some (BitVec.ofNat _ (k.len s.cfgN.toNat))

/-- R15, the four invariants of the sequencer while RUN = 1. -/
def SequencerInv (s : State) : Prop :=
  (s.phase ≠ .hunt → s.last = 0x00) ∧
  (s.phase ≠ .payload → s.cnt = 0) ∧
  (s.phase = .payload → ∃ k : Kind, s.latched k ∧ s.cnt.toNat < k.len s.cfgN.toNat ∧
    (∀ o, o < s.cnt.toNat → (s.buf.read o).isSome) ∧
    s.sum = prefixSum s.cmdr + byteSum (captured s s.cnt.toNat))

/-- R6, R12: RUN tells whether the configuration is legal. -/
def ConfigInv (s : State) : Prop := s.run = legalConfig Config.params s.cfgN s.cfgK

/-- R183: in HALT the error registers show code 5 with the offending n and k, no record is readable, and nothing is in progress. -/
def HaltInv (s : State) : Prop :=
  s.run = false →
    s.phase = .hunt ∧ s.cnt = 0 ∧ s.last = 0x00 ∧
    s.errCode = ErrKind.configuration.code ∧ s.errCmd = 0x00 ∧ s.errA = s.cfgN ∧ s.errB = s.cfgK ∧
    s.vRec = none ∧ s.mRec = none ∧ s.zRec = none

/-- R30, R166: codes 6 and 7 are never produced; ERR_CODE = 0 goes with information bytes 0x00. -/
def ErrorInv (s : State) : Prop :=
  s.errCode.toNat ≤ 5 ∧ (s.errCode = 0 → s.errCmd = 0x00 ∧ s.errA = 0x00 ∧ s.errB = 0x00) ∧
  (s.run = true → s.errCode ≠ ErrKind.configuration.code)

/-- R21 to R24, R129, R155: a record holds N cells, their exact sum, and the spread of the first K. -/
def RecordInv (s : State) : Prop :=
  (∀ r, s.vRec = some r → r.cells.length = s.cfgN.toNat ∧
    r.tot.toNat = (r.cells.map BitVec.toNat).sum ∧ r.spread = spreadOf s.cfgK.toNat r.cells) ∧
  (∀ r, s.zRec = some r → r.res.length = s.cfgN.toNat)

/-- BUF keeps its canonical form (R17: offsets 0 to 41). -/
def BufferInv (s : State) : Prop := s.buf.wf = true

/-- What every run keeps. -/
structure Inv (s : State) : Prop where
  config : ConfigInv s
  sequencer : SequencerInv s
  halt : HaltInv s
  error : ErrorInv s
  records : RecordInv s
  buffer : BufferInv s

/-- The home state (R180). -/
def State.isHome (s : State) : Prop := s.phase = .hunt ∧ s.last = 0x00 ∧ s.cnt = 0

/-- The next edge brings the event `e`. -/
def State.awaits (s : State) (e : Event) : Prop := s.nextPins.sample = .event e

/-- `k` steps, stopping at the first fault or refusal. -/
def runSteps : Nat → State → Outcome
  | 0, s => .next s
  | k + 1, s =>
    match step s with
    | .next t => runSteps k t
    | .fault f => .fault f
    | .refused r => .refused r

/-- The edges that bring the bytes `bs`, one Rx event each (R76). -/
def rxEdges (bs : List Byte) : List Pins := bs.map fun b => (Event.rx b).pins

/-- The captured bytes `bs` stored at offsets `o`, `o + 1`, and so on (R104). -/
def Memory.writeAll (m : Memory) (o : Nat) : List Byte → Memory
  | [] => m
  | b :: bs => Memory.writeAll (m.write o b) (o + 1) bs

/-- The state in which the frame `i`, received from the home state of `s`, is complete and exec runs: its bytes in BUF, the sequencer as the dispatcher and the capture rule leave it (R100, R101, R104). `rest` is what the environment presents after the frame. -/
def State.holdingFrame (i : Instr) (rest : List Pins) (s : State) : State :=
  match i.kind? with
  | some k =>
    { s with cmdr := i.cmd, kind := some k, len := some (BitVec.ofNat _ (k.len s.cfgN.toNat)),
             cnt := BitVec.ofNat _ (k.len s.cfgN.toNat), sum := wireChecksum i,
             buf := s.buf.writeAll 0 (i.summed ++ i.tail), phase := .payload, last := 0x00,
             input := rest, out := none }
  | none => { s with phase := .cmd, last := 0x00, input := rest, out := none }

/-- A frame of R75: correct declared length, correct checksum, N cells. -/
def BuiltFrame (n : Nat) (i : Instr) : Prop :=
  (∃ cells wh ah, cells.length = n ∧ i = frameV cells wh ah) ∨
  (∃ eoc mode cur t1 t2 soc, i = frameM eoc mode cur t1 t2 soc) ∨
  (∃ mode cur res, res.length = n ∧ i = frameZ mode cur res)

/-- The output event is a Rec (R37). -/
def OutEvent.isRecord : OutEvent → Bool
  | .record _ _ => true
  | .error _ _ _ _ => false

/-- The output event is a Rec with byp = 1 (R37, R119). -/
def OutEvent.isBypassed : OutEvent → Bool
  | .record _ byp => byp
  | .error _ _ _ _ => false

/-- The output event is an Err of the given code (R37, R166). -/
def OutEvent.hasCode (c : ErrCode) : OutEvent → Bool
  | .record _ _ => false
  | .error code _ _ _ => code == c

/-- One if the step's output event satisfies `p`, else zero: what an event counter grows by (R29). -/
def growth (p : OutEvent → Bool) (o : Option OutEvent) : Counter := if o.any p then 1 else 0

/-- The next edge brings no Reset. -/
def State.noReset (s : State) : Prop := ∀ n k en, ¬ s.awaits (.reset n k en)

/-- No two consecutive markers in `bs`, the byte before it being `prev` (R91, R96). -/
def noMarkerPair : Byte → List Byte → Bool
  | _, [] => true
  | prev, b :: bs => !(prev == mark && b == mark) && noMarkerPair b bs

/-- Two states that agree on everything a rule can still read or a port can show: they may differ in BUF offsets not yet captured, and outside PAYLOAD in BUF, KIND, LEN, SUM and CMDR (R34). -/
def AgreeLive (s t : State) : Prop :=
  (∃ cmdr kind len sum buf, t = { s with cmdr := cmdr, kind := kind, len := len, sum := sum, buf := buf }) ∧
  (s.phase = .payload →
    t.cmdr = s.cmdr ∧ t.kind = s.kind ∧ t.len = s.len ∧ t.sum = s.sum ∧
    ∀ o, o < s.cnt.toNat → t.buf.read o = s.buf.read o)

end Sys2Proof.Machine
end

