-- ==== Sys2Proof/Certificates/Slice0/Obligations.lean ====
section
/-! DEFINITION. The statements for the provers. Basis, citations and tiers stand in OBLIGATIONS.json. D<n> is a decision of spec/92_eei_decisions.md: where a clause rests on one, the docstring names it and the statement's basis is 'derived'. -/

open Sys2Proof Sys2Proof.Machine

/-! ### Reset and operating states -/

/-- R191: after a Reset with a legal configuration the block is in the home state, no record is valid, no error is recorded, all counters are 0. LAST = 0x00 rests on D4, the valid bits on D21, K ≥ 1 on D7. -/
def Obligations.LegalResetEntersHome : Prop :=
  ∀ (s : State) (n k : Byte) (en : Bool), s.awaits (.reset n k en) → n ∈ Config.params.supportedN → 1 ≤ k.toNat → k.toNat ≤ n.toNat →
    ∃ t, step s = .next t ∧ t.run = true ∧ t.phase = .hunt ∧ t.last = 0x00 ∧ t.cnt = 0 ∧
      t.vRec = none ∧ t.mRec = none ∧ t.zRec = none ∧ t.errCode = 0 ∧
      t.cntOk = 0 ∧ t.cntFraming = 0 ∧ t.cntUnknown = 0 ∧ t.cntTrunc = 0 ∧ t.cntCsum = 0 ∧ t.cntByp = 0 ∧ t.out = none

/-- R190, R193, R39: Reset(n, k, en) in any state gives every register its value in the table of R39, whichever way the configuration check goes. The table rests on D4, D21, D23, the third cause (k = 0) on D7, code 5 on D16; keeping `input` and `sent` is the model's (log entries 1, 2). -/
def Obligations.ResetGivesTheResetTable : Prop :=
  ∀ (s : State) (n k : Byte) (en : Bool), s.awaits (.reset n k en) →
    let legal := n ∈ Config.params.supportedN ∧ 1 ≤ k.toNat ∧ k.toNat ≤ n.toNat
    let base : State :=
      { cfgN := n, cfgK := k, cfgCsumEn := en, run := true, phase := .hunt, cnt := 0, last := 0x00, cmdr := 0x00,
        kind := none, len := none, sum := 0x00, buf := [], vRec := none, mRec := none, zRec := none,
        errCode := 0, errCmd := 0x00, errA := 0x00, errB := 0x00, cntOk := 0, cntFraming := 0, cntUnknown := 0,
        cntTrunc := 0, cntCsum := 0, cntByp := 0, input := s.input.tail, out := none, sent := s.sent }
    (legal → step s = .next base) ∧
    (¬ legal → step s = .next { base with
        run := false, errCode := 5, errA := n, errB := k,
        out := some (.error 5 0x00 n k), sent := s.sent ++ [.error 5 0x00 n k] })

/-- R183: in HALT an Rx or Trunc event is consumed with no change and no output event. HALT as a state is D23. -/
def Obligations.HaltIsInert : Prop :=
  ∀ (s : State) (e : Event), s.run = false → s.awaits e → s.noReset → step s = .next s.consume

/-- R183: no frame has an effect in HALT, of any kind (log entry 7: exec checks RUN itself). -/
def Obligations.HaltedBlockTakesNoFrame : Prop := ∀ (i : Instr) (s : State), s.run = false → exec i s = .next s

/-- R28, R182: between resets CFG_N, CFG_K, CFG_CSUM_EN and RUN never change. -/
def Obligations.ConfigurationFixedBetweenResets : Prop :=
  ∀ s t : State, s.noReset → step s = .next t →
    t.cfgN = s.cfgN ∧ t.cfgK = s.cfgK ∧ t.cfgCsumEn = s.cfgCsumEn ∧ t.run = s.run

/-! ### Input and output -/

/-- R36, R176: rst wins over the strobes; rx_valid alone is Rx, rx_trunc alone is Trunc, neither is no event and changes nothing but the strobes; both together are refused. The pins are D1, the refusal D19. -/
def Obligations.PinsAreSampledByPriority : Prop :=
  ∀ (s : State) (p : Pins) (rest : List Pins), s.input = p :: rest →
    (p.rst = true → s.awaits (.reset p.cfgN p.cfgK p.cfgCsumEn)) ∧
    (p.rst = false → p.rxValid = true → p.rxTrunc = false → s.awaits (.rx p.rxData)) ∧
    (p.rst = false → p.rxValid = false → p.rxTrunc = true → s.awaits .trunc) ∧
    (p.rst = false → p.rxValid = false → p.rxTrunc = false → step s = .next { s with input := rest, out := none }) ∧
    (p.rst = false → p.rxValid = true → p.rxTrunc = true → step s = .refused .rxWithTrunc)

/-- R35: when the environment presents nothing, nothing changes (only the strobes of the step before end, R38; log entry 9). -/
def Obligations.NoInputNoChange : Prop := ∀ s : State, s.input = [] → step s = .next { s with out := none }

/-- R37: a step produces at most one output event, and the sequence sent grows by exactly that event (D29). -/
def Obligations.AtMostOneOutputEventPerStep : Prop :=
  ∀ s t : State, step s = .next t →
    (t.out = none ∧ t.sent = s.sent) ∨ (∃ e, t.out = some e ∧ t.sent = s.sent ++ [e])

/-- R38, R31: rec_valid and err_valid are never 1 together, each is 1 exactly while the last step's output event is a Rec or an Err; rec_kind is the code R16 gives the record's kind and rec_byp its bypass bit; `halted` is NOT RUN; every error, configuration, result and counter register stands on its own port, and a valid bit is 1 exactly while its group holds a record (R20). The ports are D1, the KIND codes D27; the field that holds the last step's event is the model's (log entry 2). -/
def Obligations.OutputPortsShowTheState : Prop :=
  ∀ s : State, let p := s.ports
    ¬ (p.recValid = true ∧ p.errValid = true) ∧ p.halted = !s.run ∧
    (p.recValid = true ↔ ∃ k byp, s.out = some (.record k byp)) ∧
    (p.errValid = true ↔ ∃ c x a b, s.out = some (.error c x a b)) ∧
    (∀ byp, (s.out = some (.record .v byp) → p.recKind = some 0 ∧ p.recByp = some byp) ∧
      (s.out = some (.record .m byp) → p.recKind = some 1 ∧ p.recByp = some byp) ∧
      (s.out = some (.record .z byp) → p.recKind = some 2 ∧ p.recByp = some byp)) ∧
    (p.errCode = s.errCode ∧ p.errCmd = s.errCmd ∧ p.errA = s.errA ∧ p.errB = s.errB) ∧
    (p.cfgN = s.cfgN ∧ p.cfgK = s.cfgK ∧ p.cfgCsumEn = s.cfgCsumEn) ∧
    (p.vRegs = s.vRec ∧ p.mRegs = s.mRec ∧ p.zRegs = s.zRec) ∧
    (p.cntOk = s.cntOk ∧ p.cntFraming = s.cntFraming ∧ p.cntUnknown = s.cntUnknown ∧ p.cntTrunc = s.cntTrunc ∧
      p.cntCsum = s.cntCsum ∧ p.cntByp = s.cntByp) ∧
    (p.vValid = true ↔ ∃ r, s.vRec = some r) ∧ (p.mValid = true ↔ ∃ r, s.mRec = some r) ∧
    (p.zValid = true ↔ ∃ r, s.zRec = some r)

/-! ### The synchronizer -/

/-- R91: in HUNT a byte that does not complete a marker pair is remembered in LAST and nothing else changes; that it raises no error is D20. -/
def Obligations.NoiseByteIsAbsorbed : Prop :=
  ∀ (s : State) (b : Byte), s.awaits (.rx b) → s.run = true → s.phase = .hunt → ¬ (s.last = 0x24 ∧ b = 0x24) →
    step s = .next { s.consume with last := b }

/-- R92: two consecutive 0x24 bytes in HUNT move to CMD; clearing LAST is D4. -/
def Obligations.MarkerPairIsDetected : Prop :=
  ∀ s : State, s.awaits (.rx 0x24) → s.run = true → s.phase = .hunt → s.last = 0x24 →
    step s = .next { s.consume with last := 0x00, phase := .cmd }

/-- R93: Trunc in HUNT changes nothing (D18). -/
def Obligations.TruncInHuntHasNoEffect : Prop :=
  ∀ s : State, s.awaits .trunc → s.run = true → s.phase = .hunt → step s = .next s.consume

/-- R96: a stream with no two consecutive markers produces no output and changes nothing but LAST, however long it is. -/
def Obligations.NoiseStreamChangesOnlyLast : Prop :=
  ∀ (s : State) (bs : List Byte) (rest : List Pins), s.run = true → s.phase = .hunt → bs ≠ [] →
    noMarkerPair s.last bs = true → s.input = rxEdges bs ++ rest →
    runSteps bs.length s = .next { s with last := bs.getLastD 0, input := rest, out := none }

/-! ### The dispatcher and the frame reader -/

/-- R100, R101, R115: a known command byte latches CMDR, KIND and LEN, clears CNT, loads SUM with the prefix sum and starts the capture. -/
def Obligations.KnownCommandIsLatched : Prop :=
  ∀ s : State, s.run = true → s.phase = .cmd →
    (s.awaits (.rx 0x56) → step s = .next { s.consume with
      cmdr := 0x56, kind := some .v,
      len := some (BitVec.ofNat _ (2 * s.cfgN.toNat + 10)), cnt := 0, sum := 0x24 + 0x24 + 0x56, phase := .payload }) ∧
    (s.awaits (.rx 0x57) → step s = .next { s.consume with
      cmdr := 0x57, kind := some .m,
      len := some 12, cnt := 0, sum := 0x24 + 0x24 + 0x57, phase := .payload }) ∧
    (s.awaits (.rx 0x58) → step s = .next { s.consume with
      cmdr := 0x58, kind := some .z,
      len := some (BitVec.ofNat _ (2 * s.cfgN.toNat + 5)), cnt := 0, sum := 0x24 + 0x24 + 0x58, phase := .payload })

/-- R100, R102: any other byte in phase CMD, 0x24 among them (R73), latches CMDR and raises UnknownCommand(b, 0, 0); no further byte belongs to the frame. -/
def Obligations.UnknownCommandIsRaised : Prop :=
  ∀ (s : State) (b : Byte), s.awaits (.rx b) → s.run = true → s.phase = .cmd → b ≠ 0x56 → b ≠ 0x57 → b ≠ 0x58 →
    step s = .next { s.consume with
      cmdr := b, errCode := 2, errCmd := b, errA := 0x00, errB := 0x00, cntUnknown := s.cntUnknown + 1,
      out := some (.error 2 b 0x00 0x00), sent := s.sent ++ [.error 2 b 0x00 0x00], phase := .hunt, last := 0x00, cnt := 0 }

/-- R103: Trunc in CMD raises TruncatedFrame(0, 0, 0); CMDR is not written (D18). -/
def Obligations.TruncInCmdIsTruncatedFrame : Prop :=
  ∀ s : State, s.awaits .trunc → s.run = true → s.phase = .cmd →
    step s = .next { s.consume with
      errCode := 3, errCmd := 0x00, errA := 0x00, errB := 0x00, cntTrunc := s.cntTrunc + 1,
      out := some (.error 3 0x00 0x00 0x00), sent := s.sent ++ [.error 3 0x00 0x00 0x00], phase := .hunt, last := 0x00, cnt := 0 }

/-- R105: Trunc in PAYLOAD raises TruncatedFrame(CMDR, CNT, LEN), the information bytes read before CNT is cleared; no record register changes. Without an event the block stays in PAYLOAD as it is. -/
def Obligations.TruncInPayloadIsTruncatedFrame : Prop :=
  ∀ (s : State) (len : Count), s.run = true → s.phase = .payload → s.len = some len →
    (s.awaits .trunc → step s = .next { s.consume with
      errCode := 3, errCmd := s.cmdr, errA := s.cnt.setWidth 8, errB := len.setWidth 8, cntTrunc := s.cntTrunc + 1,
      out := some (.error 3 s.cmdr (s.cnt.setWidth 8) (len.setWidth 8)),
      sent := s.sent ++ [.error 3 s.cmdr (s.cnt.setWidth 8) (len.setWidth 8)], phase := .hunt, last := 0x00, cnt := 0 }) ∧
    (s.nextPins.sample = .idle → step s = .next s.consume)

/-- R104, R116: a captured byte, whatever its value, is stored at BUF[CNT], added to SUM unless it is the last, and counted; in the step that captures byte number LEN the frame in BUF runs (D2). -/
def Obligations.ByteIsCaptured : Prop :=
  ∀ (s : State) (b : Byte) (len : Count), s.awaits (.rx b) → s.run = true → s.phase = .payload → s.len = some len →
    s.cnt.toNat < 42 →
    let u := { s.consume with
      buf := s.buf.write s.cnt.toNat b, sum := if s.cnt.toNat + 1 < len.toNat then s.sum + b else s.sum, cnt := s.cnt + 1 }
    step s = if s.cnt + 1 = len then exec (capturedFrame u) u else .next u

/-- R116: in every capture step the byte at offsets 0 to LEN - 2 is added to SUM modulo 256, the byte at offset LEN - 1 is not; whatever the frame then does, SUM keeps that value. -/
def Obligations.SumTakesEveryByteButTheLast : Prop :=
  ∀ (s : State) (b : Byte) (len : Count), s.awaits (.rx b) → s.run = true → s.phase = .payload → s.len = some len →
    s.cnt.toNat < 42 →
    ∃ t, step s = .next t ∧ t.sum.toNat = if s.cnt.toNat < len.toNat - 1 then (s.sum.toNat + b.toNat) % 256 else s.sum.toNat

/-- R17, R49: BUF changes only by capture, and then only at offset CNT: every other offset reads as before. Between resets. -/
def Obligations.BufferChangesOnlyAtCnt : Prop :=
  ∀ s t : State, s.noReset → step s = .next t →
    (∀ o, t.buf.read o = s.buf.read o) ∨
    (s.phase = .payload ∧ ∃ b, s.awaits (.rx b) ∧ t.buf.read s.cnt.toNat = some b ∧
      ∀ o, o ≠ s.cnt.toNat → t.buf.read o = s.buf.read o)

/-- R104, R107, R60: when the byte that is received completes a frame, and the frame's wire bytes (prefix, captured bytes, this byte) decode to `i`, the step is exec of `i` on the state with the byte captured. -/
def Obligations.StepRunsTheDecodedFrame : Prop :=
  ∀ (s : State) (b : Byte) (i : Instr), Inv s → s.run = true → s.awaits (.rx b) →
    (s.phase = .payload → s.len = some (s.cnt + 1) →
      decode s.cfgN.toNat (0x24 :: 0x24 :: s.cmdr :: (captured s s.cnt.toNat ++ [b])) = .frame i [] →
      step s = exec i { s.consume with buf := s.buf.write s.cnt.toNat b, cnt := s.cnt + 1 }) ∧
    (s.phase = .cmd → decode s.cfgN.toNat [0x24, 0x24, b] = .frame i [] → step s = exec i s.consume)

/-! ### The frames -/

/-- R102 as the meaning of UNKNOWN: exec answers the error entry, nothing else changes. -/
def Obligations.UnknownFrameRaisesUnknownCommand : Prop :=
  ∀ (s : State) (cmd : Byte), s.run = true →
    exec (.unknown cmd) s = .next { s with
      cmdr := cmd, errCode := 2, errCmd := cmd, errA := 0x00, errB := 0x00, cntUnknown := s.cntUnknown + 1,
      out := some (.error 2 cmd 0x00 0x00), sent := s.sent ++ [.error 2 cmd 0x00 0x00], phase := .hunt, last := 0x00, cnt := 0 }

/-- R107, R125, R119: a V frame with the right declared length, and a right checksum or verification disabled, writes the V group (all N cells, watt-hours, amp-hours, their sum, the spread over the first CFG_K cells) and is delivered, byp telling whether the checksum was wrong; every other register, BUF among them, is unchanged. The bypass is D9. -/
def Obligations.VoltageFrameIsDelivered : Prop :=
  ∀ (s : State) (declared : Byte) (cells : List U16) (wh ah : U32) (checksum : Byte) (len : Count),
    s.run = true → s.len = some len → declared = len.setWidth 8 + 3 → (s.cfgCsumEn = false ∨ s.sum = checksum) →
    exec (.vframe declared cells wh ah checksum) s = .next { s with
      vRec := some { cells := cells, wh := wh, ah := ah, tot := BitVec.ofNat _ (cells.map BitVec.toNat).sum,
                     spread := spreadOf s.cfgK.toNat cells },
      cntOk := s.cntOk + 1, cntByp := s.cntByp + (if s.sum = checksum then 0 else 1),
      out := some (.record .v (s.sum != checksum)), sent := s.sent ++ [.record .v (s.sum != checksum)],
      phase := .hunt, last := 0x00, cnt := 0 }

/-- R107, R135, R119: the same of an M frame: its six fields stored as they are, no other group written. -/
def Obligations.MeasurementFrameIsDelivered : Prop :=
  ∀ (s : State) (declared : Byte) (eoc : U16) (mode : Byte) (cur t1 t2 : U16) (soc checksum : Byte) (len : Count),
    s.run = true → s.len = some len → declared = len.setWidth 8 + 3 → (s.cfgCsumEn = false ∨ s.sum = checksum) →
    exec (.mframe declared eoc mode cur t1 t2 soc checksum) s = .next { s with
      mRec := some { eoc := eoc, mode := mode, cur := cur, t1 := t1, t2 := t2, soc := soc },
      cntOk := s.cntOk + 1, cntByp := s.cntByp + (if s.sum = checksum then 0 else 1),
      out := some (.record .m (s.sum != checksum)), sent := s.sent ++ [.record .m (s.sum != checksum)],
      phase := .hunt, last := 0x00, cnt := 0 }

/-- R107, R145, R119: the same of a Z frame: mode, current and resistances stored as they are, no spread computed. -/
def Obligations.ImpedanceFrameIsDelivered : Prop :=
  ∀ (s : State) (declared mode : Byte) (cur : U16) (res : List U16) (checksum : Byte) (len : Count),
    s.run = true → s.len = some len → declared = len.setWidth 8 + 3 → (s.cfgCsumEn = false ∨ s.sum = checksum) →
    exec (.zframe declared mode cur res checksum) s = .next { s with
      zRec := some { mode := mode, cur := cur, res := res },
      cntOk := s.cntOk + 1, cntByp := s.cntByp + (if s.sum = checksum then 0 else 1),
      out := some (.record .z (s.sum != checksum)), sent := s.sent ++ [.record .z (s.sum != checksum)],
      phase := .hunt, last := 0x00, cnt := 0 }

/-- R106, R175: a frame of any kind whose declared length is not LEN + 3 raises FramingError(CMDR, BUF[0], LEN + 3), whatever its checksum byte and CFG_CSUM_EN are; no record register changes. Check order and gating are D8. -/
def Obligations.WrongLengthIsFramingError : Prop :=
  ∀ (s : State) (i : Instr) (declared : Byte) (len : Count), s.run = true → s.len = some len →
    ((∃ cells wh ah cs, i = .vframe declared cells wh ah cs) ∨
     (∃ eoc mode cur t1 t2 soc cs, i = .mframe declared eoc mode cur t1 t2 soc cs) ∨
     (∃ mode cur res cs, i = .zframe declared mode cur res cs)) →
    declared ≠ len.setWidth 8 + 3 →
    exec i s = .next { s with
      errCode := 1, errCmd := s.cmdr, errA := declared, errB := len.setWidth 8 + 3, cntFraming := s.cntFraming + 1,
      out := some (.error 1 s.cmdr declared (len.setWidth 8 + 3)),
      sent := s.sent ++ [.error 1 s.cmdr declared (len.setWidth 8 + 3)], phase := .hunt, last := 0x00, cnt := 0 }

/-- R118: with CFG_CSUM_EN = 1, a frame of any kind that passed the length check and whose checksum byte differs from SUM raises ChecksumMismatch(CMDR, SUM, BUF[LEN-1]) and no decoder runs; one whose checksum byte equals SUM passes with byp = 0. -/
def Obligations.ChecksumIsVerified : Prop :=
  ∀ (s : State) (i : Instr) (declared cs : Byte) (len : Count), s.run = true → s.len = some len → s.cfgCsumEn = true →
    ((∃ cells wh ah, i = .vframe declared cells wh ah cs) ∨
     (∃ eoc mode cur t1 t2 soc, i = .mframe declared eoc mode cur t1 t2 soc cs) ∨
     (∃ mode cur res, i = .zframe declared mode cur res cs)) →
    declared = len.setWidth 8 + 3 →
    (s.sum ≠ cs → exec i s = .next { s with
      errCode := 4, errCmd := s.cmdr, errA := s.sum, errB := cs, cntCsum := s.cntCsum + 1,
      out := some (.error 4 s.cmdr s.sum cs), sent := s.sent ++ [.error 4 s.cmdr s.sum cs],
      phase := .hunt, last := 0x00, cnt := 0 }) ∧
    (s.sum = cs → ∃ t k, exec i s = .next t ∧ i.kind? = some k ∧ t.out = some (.record k false) ∧
      t.cntCsum = s.cntCsum ∧ t.cntByp = s.cntByp)

/-- R120: in every state of a frame being captured that meets the invariants, the register SUM is the plain sum of the prefix and the bytes captured so far, as integers, modulo 256; and the comparison at completion is equality of two bytes. -/
def Obligations.SumIsThePlainSumModulo256 : Prop :=
  (∀ s : State, Inv s → s.run = true → s.phase = .payload →
    s.sum.toNat = (0x24 + 0x24 + s.cmdr.toNat + ((captured s s.cnt.toNat).map BitVec.toNat).sum) % 256) ∧
  (∀ sum embedded : Byte, verdict true sum embedded = .pass false ↔ sum.toNat = embedded.toNat)

/-- R178, R179: error entry writes the error registers, the condition's own counter, the Err event and the home state, and nothing else, for each per-frame condition. Which condition has which code is D16 (R166). -/
def Obligations.ErrorEntryWritesOnlyItsOwn : Prop :=
  ∀ (s : State) (cmd a b : Byte),
    let entered (c : ErrCode) : State := { s with
      errCode := c, errCmd := cmd, errA := a, errB := b, out := some (.error c cmd a b), sent := s.sent ++ [.error c cmd a b],
      phase := .hunt, last := 0x00, cnt := 0 }
    raiseError .framing cmd a b s = { entered 1 with cntFraming := s.cntFraming + 1 } ∧
    raiseError .unknownCommand cmd a b s = { entered 2 with cntUnknown := s.cntUnknown + 1 } ∧
    raiseError .truncated cmd a b s = { entered 3 with cntTrunc := s.cntTrunc + 1 } ∧
    raiseError .checksumMismatch cmd a b s = { entered 4 with cntCsum := s.cntCsum + 1 }

/-! ### Fields from the buffer, byte by byte -/

/-- R125 to R130: the step that completes a V frame at N = 16 leaves V_CELL[i] = BUF[2i+1] * 256 + BUF[2i+2] for all 16 cells, V_WH and V_AH little-endian from offsets 33 and 37, V_TOT the exact sum of the cells, and the spread of the first CFG_K cells. The 0-based index is D14, the unsigned 32-bit reading D12, completion in this step D2, delivery of a frame with a wrong checksum while verification is disabled D9 (R119). -/
def Obligations.VoltageFieldsAreTheBufferBytes : Prop :=
  ∀ (s : State) (b : Byte), s.awaits (.rx b) → s.run = true → s.phase = .payload → s.cfgN = 16 → s.kind = some .v →
    s.len = some 42 → s.cnt = 41 → s.buf.read 0 = some 0x2D → (s.cfgCsumEn = false ∨ s.sum = b) →
    let byte (o : Nat) : Nat := (bufByte s o).toNat
    ∃ t r, step s = .next t ∧ t.vRec = some r ∧ r.cells.length = 16 ∧
      (∀ i, i < 16 → (r.cells[i]?).map BitVec.toNat = some (byte (2 * i + 1) * 256 + byte (2 * i + 2))) ∧
      r.wh.toNat = byte 33 + byte 34 * 2 ^ 8 + byte 35 * 2 ^ 16 + byte 36 * 2 ^ 24 ∧
      r.ah.toNat = byte 37 + byte 38 * 2 ^ 8 + byte 39 * 2 ^ 16 + byte 40 * 2 ^ 24 ∧
      r.tot.toNat = (r.cells.map BitVec.toNat).sum ∧ r.spread = spreadOf s.cfgK.toNat r.cells

/-- R129: V_TOT is the exact sum of all N cell voltages of the frame, whatever K is, and stands for that many thousandths of a volt. That a frame with a wrong checksum is decoded while verification is disabled is D9 (R119). -/
def Obligations.PackVoltageIsTheExactSum : Prop :=
  ∀ (s : State) (declared : Byte) (cells : List U16) (wh ah : U32) (checksum : Byte) (len : Count),
    s.run = true → s.cfgN = 16 → cells.length = 16 → s.len = some len → declared = len.setWidth 8 + 3 →
    (s.cfgCsumEn = false ∨ s.sum = checksum) →
    ∃ t r, exec (.vframe declared cells wh ah checksum) s = .next t ∧ t.vRec = some r ∧ r.cells = cells ∧
      r.tot.toNat = (cells.map BitVec.toNat).sum ∧
      ResultReg.vTot.physical r.tot.toNat = some (((cells.map BitVec.toNat).sum : Rat) / 1000)

/-- R136, R137, R139, R140: the step that completes an M frame leaves M_EOC, M_T1, M_T2 big-endian from offsets 1, 6, 8 and M_MODE, M_SOC the bytes at 3 and 10, each with its scale. Completion in this step is D2, delivery with CFG_CSUM_EN = 0 and a wrong checksum D9 (R119). -/
def Obligations.MeasurementFieldsAreTheBufferBytes : Prop :=
  ∀ (s : State) (b : Byte), s.awaits (.rx b) → s.run = true → s.phase = .payload → s.kind = some .m →
    s.len = some 12 → s.cnt = 11 → s.buf.read 0 = some 0x0F → (s.cfgCsumEn = false ∨ s.sum = b) →
    let byte (o : Nat) : Nat := (bufByte s o).toNat
    ∃ t r, step s = .next t ∧ t.mRec = some r ∧
      r.eoc.toNat = byte 1 * 256 + byte 2 ∧ r.mode.toNat = byte 3 ∧
      r.t1.toNat = byte 6 * 256 + byte 7 ∧ r.t2.toNat = byte 8 * 256 + byte 9 ∧ r.soc.toNat = byte 10 ∧
      ResultReg.mEoc.physical r.eoc.toNat = some ((r.eoc.toNat : Rat) / 1000) ∧
      ResultReg.mT1.physical r.t1.toNat = some ((r.t1.toNat : Rat) / 10) ∧
      ResultReg.mT2.physical r.t2.toNat = some ((r.t2.toNat : Rat) / 10) ∧
      ResultReg.mSoc.physical r.soc.toNat = some (r.soc.toNat : Rat) ∧ ResultReg.mSoc.unit = .percent

/-- R138, R147, R142: the measurement frame's current is read high byte first, the impedance frame's low byte first, both unsigned (D11), in the step that completes the frame (D2), verified or with verification disabled (D9): with bytes 0x00 and 0xFF in this order the one is 255, the other 65280. -/
def Obligations.CurrentsHaveOppositeByteOrders : Prop :=
  (∀ (s : State) (b : Byte), s.awaits (.rx b) → s.run = true → s.phase = .payload → s.kind = some .m →
    s.len = some 12 → s.cnt = 11 → s.buf.read 0 = some 0x0F → (s.cfgCsumEn = false ∨ s.sum = b) →
    ∃ t r, step s = .next t ∧ t.mRec = some r ∧ r.cur.toNat = (bufByte s 4).toNat * 256 + (bufByte s 5).toNat ∧
      (s.buf.read 4 = some 0x00 → s.buf.read 5 = some 0xFF → r.cur = 255)) ∧
  (∀ (s : State) (b : Byte), s.awaits (.rx b) → s.run = true → s.phase = .payload → s.cfgN = 16 → s.kind = some .z →
    s.len = some 37 → s.cnt = 36 → s.buf.read 0 = some 0x28 → (s.cfgCsumEn = false ∨ s.sum = b) →
    ∃ t r, step s = .next t ∧ t.zRec = some r ∧ r.cur.toNat = (bufByte s 3).toNat * 256 + (bufByte s 2).toNat ∧
      (s.buf.read 2 = some 0x00 → s.buf.read 3 = some 0xFF → r.cur = 65280))

/-- R145 to R148: the step that completes a Z frame at N = 16 leaves Z_MODE the byte at 1, Z_CUR the two bytes from 2 and Z_RES[i] the two bytes from 2i + 4, low byte first, for all 16 cells whatever K is, and computes no spread: the V group is unchanged. The 0-based cell index is D14, the unsigned current D11, completion in this step D2, delivery with CFG_CSUM_EN = 0 and a wrong checksum D9 (R119). -/
def Obligations.ImpedanceFieldsAreTheBufferBytes : Prop :=
  ∀ (s : State) (b : Byte), s.awaits (.rx b) → s.run = true → s.phase = .payload → s.cfgN = 16 → s.kind = some .z →
    s.len = some 37 → s.cnt = 36 → s.buf.read 0 = some 0x28 → (s.cfgCsumEn = false ∨ s.sum = b) →
    let byte (o : Nat) : Nat := (bufByte s o).toNat
    ∃ t r, step s = .next t ∧ t.zRec = some r ∧ r.res.length = 16 ∧ r.mode.toNat = byte 1 ∧
      r.cur.toNat = byte 2 + byte 3 * 256 ∧
      (∀ i, i < 16 → (r.res[i]?).map BitVec.toNat = some (byte (2 * i + 4) + byte (2 * i + 5) * 256)) ∧
      t.vRec = s.vRec ∧ t.mRec = s.mRec

/-! ### The spread calculator -/

/-- R156, R158, R159: the scan's results are the minimum and the maximum of the first K cells, the largest indices that hold them, and their difference. Starting values are D15; the last-occurrence tie-break is the source's own, inferred there (spec/93 U2). -/
def Obligations.SpreadIsMinMaxWithLastIndices : Prop :=
  ∀ (k : Nat) (cells : List U16), 1 ≤ k → k ≤ cells.length → k ≤ 16 →
    let w := cells.take k
    let r := spreadOf k cells
    (∀ v ∈ w, r.vMin.toNat ≤ v.toNat ∧ v.toNat ≤ r.vMax.toNat) ∧
    w[r.minIdx.toNat]? = some r.vMin ∧ w[r.maxIdx.toNat]? = some r.vMax ∧
    (∀ j, r.minIdx.toNat < j → w[j]? ≠ some r.vMin) ∧ (∀ j, r.maxIdx.toNat < j → w[j]? ≠ some r.vMax) ∧
    r.diff.toNat = r.vMax.toNat - r.vMin.toNat

/-- R159: S_DIFF is S_VMAX - S_VMIN, an unsigned subtraction that cannot borrow, in millivolts. -/
def Obligations.SpreadDifferenceNeverBorrows : Prop :=
  ∀ (k : Nat) (cells : List U16), 1 ≤ k → k ≤ cells.length → k ≤ 16 →
    let r := spreadOf k cells
    r.vMin.toNat ≤ r.vMax.toNat ∧ r.diff.toNat = r.vMax.toNat - r.vMin.toNat ∧ r.diff.toNat ≤ 65535 ∧
    ResultReg.sDiff.physical r.diff.toNat = some (r.diff.toNat : Rat) ∧ ResultReg.sDiff.unit = .millivolt

/-- R161: the indices differ unless all K values are equal, and then both are K - 1 and the difference is 0. -/
def Obligations.SpreadIndicesDifferUnlessAllEqual : Prop :=
  ∀ (k : Nat) (cells : List U16), 1 ≤ k → k ≤ cells.length → k ≤ 16 →
    let w := cells.take k
    let r := spreadOf k cells
    ((∃ u ∈ w, ∃ v ∈ w, u ≠ v) → r.minIdx ≠ r.maxIdx) ∧
    ((∀ u ∈ w, ∀ v ∈ w, u = v) → r.minIdx.toNat = k - 1 ∧ r.maxIdx.toNat = k - 1 ∧ r.diff = 0)

/-! ### What a whole step can change -/

/-- R20, R26: between resets a group of result registers changes only in a step that delivers a record of its kind, and a valid bit once set stays set (D21). -/
def Obligations.RecordsChangeOnlyByDelivery : Prop :=
  ∀ s t : State, s.noReset → step s = .next t →
    (t.vRec = s.vRec ∨ ∃ byp, t.out = some (.record .v byp)) ∧
    (t.mRec = s.mRec ∨ ∃ byp, t.out = some (.record .m byp)) ∧
    (t.zRec = s.zRec ∨ ∃ byp, t.out = some (.record .z byp)) ∧
    (s.vRec.isSome → t.vRec.isSome) ∧ (s.mRec.isSome → t.mRec.isSome) ∧ (s.zRec.isSome → t.zRec.isSome)

/-- R29, R185: between resets each counter grows, modulo 2^32, by exactly one in the step of its event and not otherwise (D17). -/
def Obligations.CountersFollowTheOutputEvents : Prop :=
  ∀ s t : State, s.noReset → step s = .next t →
    t.cntOk = s.cntOk + growth OutEvent.isRecord t.out ∧
    t.cntByp = s.cntByp + growth OutEvent.isBypassed t.out ∧
    t.cntFraming = s.cntFraming + growth (OutEvent.hasCode 1) t.out ∧
    t.cntUnknown = s.cntUnknown + growth (OutEvent.hasCode 2) t.out ∧
    t.cntTrunc = s.cntTrunc + growth (OutEvent.hasCode 3) t.out ∧
    t.cntCsum = s.cntCsum + growth (OutEvent.hasCode 4) t.out

/-- R30, R178 to R181: between resets the error registers change only in a step that raises an error, and then they show exactly that error; the step leaves the home state and every record as it was. -/
def Obligations.ErrorRegistersShowTheLastError : Prop :=
  ∀ s t : State, s.noReset → step s = .next t →
    (∀ c x a b, t.out = some (.error c x a b) →
      t.errCode = c ∧ t.errCmd = x ∧ t.errA = a ∧ t.errB = b ∧ t.isHome ∧
      t.vRec = s.vRec ∧ t.mRec = s.mRec ∧ t.zRec = s.zRec) ∧
    ((∀ c x a b, t.out ≠ some (.error c x a b)) →
      t.errCode = s.errCode ∧ t.errCmd = s.errCmd ∧ t.errA = s.errA ∧ t.errB = s.errB)

/-! ### Invariants -/

/-- The state right after reset meets the invariants (which configuration that is: log entry 3). -/
def Obligations.ResetStateMeetsTheInvariants : Prop := Inv State.reset

/-- R15, with R6, R12, R14, R30, R129, R155, R183: every step keeps the invariants, from any state that meets them. -/
def Obligations.StepKeepsTheInvariants : Prop := ∀ s t : State, Inv s → step s = .next t → Inv t

/-- R165, R197: from a state that meets the invariants every input the contract allows is taken: the step answers a next state, and only an edge outside the contract is refused. The model's fault bufferRange is never raised. -/
def Obligations.EveryAllowedInputIsTaken : Prop :=
  ∀ s : State, Inv s → ((∃ t, step s = .next t) ∧ s.nextPins.sample ≠ .outsideContract) ∨
    (s.nextPins.sample = .outsideContract ∧ step s = .refused .rxWithTrunc)

/-- R96, R104, R180: a frame being captured ends in the step of its last byte, whatever the bytes are: in the home state, with exactly one output event. (That the bytes arrive is the premise R198 asks for.) -/
def Obligations.FrameEndsWithItsLastByte : Prop :=
  ∀ (s : State) (k : Kind) (bs : List Byte) (rest : List Pins), Inv s → s.run = true → s.phase = .payload → s.latched k →
    bs.length = k.len s.cfgN.toNat - s.cnt.toNat → s.input = rxEdges bs ++ rest →
    ∃ t e, runSteps bs.length s = .next t ∧ t.isHome ∧ t.input = rest ∧ t.out = some e ∧ t.sent = s.sent ++ [e]

/-- R34, R203: stale content is invisible. Two states that agree on all that a rule may still read give the same next states up to stale content, with the same records, registers and output events. -/
def Obligations.StaleContentIsInvisible : Prop :=
  ∀ s s' t : State, Inv s → Inv s' → AgreeLive s s' → step s = .next t → ∃ t', step s' = .next t' ∧ AgreeLive t t'

/-! ### Encoding -/

/-- R60 to R66, R74, R75: every well-formed frame, for every N, is read back from its bytes with every operand, and no byte behind it is taken. -/
def Obligations.DecodeReadsBackEveryFrame : Prop :=
  ∀ (n : Nat) (i : Instr) (rest : List Byte), i.wf n = true → decode n (encode i ++ rest) = .frame i rest

/-- R122: re-encoding a decoded frame gives its bytes exactly, and what is decoded is well-formed. -/
def Obligations.EncodeReproducesTheBytes : Prop :=
  ∀ (n : Nat) (bs : List Byte) (i : Instr) (rest : List Byte), decode n bs = .frame i rest →
    encode i ++ rest = bs ∧ i.wf n = true

/-- R75 with R60, R63 to R65: the frames the constructors of R75 build have the wire format of their kind, byte by byte, at N = 16: the declared length the format shows, the checksum as the last byte, equal to the sum modulo 256 of the bytes before it. R75 is derived by the spec; the 0-based cell index is D14. -/
def Obligations.FramesAreLaidOutAsTheFormatsSay : Prop :=
  (∀ (cells : List U16) (wh ah : U32), cells.length = 16 →
    let w := encode (frameV cells wh ah)
    w.length = 45 ∧ w.take 4 = [0x24, 0x24, 0x56, 0x2D] ∧
    (∀ i (c : U16), cells[i]? = some c → w[4 + 2 * i]? = some (hi c) ∧ w[5 + 2 * i]? = some (lo c)) ∧
    (w.drop 36).take 4 = [wh.extractLsb' 0 8, wh.extractLsb' 8 8, wh.extractLsb' 16 8, wh.extractLsb' 24 8] ∧
    (w.drop 40).take 4 = [ah.extractLsb' 0 8, ah.extractLsb' 8 8, ah.extractLsb' 16 8, ah.extractLsb' 24 8] ∧
    w[44]? = some (byteSum (w.take 44))) ∧
  (∀ (eoc : U16) (mode : Byte) (cur t1 t2 : U16) (soc : Byte),
    let w := encode (frameM eoc mode cur t1 t2 soc)
    w.length = 15 ∧
    w.take 14 = [0x24, 0x24, 0x57, 0x0F, hi eoc, lo eoc, mode, hi cur, lo cur, hi t1, lo t1, hi t2, lo t2, soc] ∧
    w[14]? = some (byteSum (w.take 14))) ∧
  (∀ (mode : Byte) (cur : U16) (res : List U16), res.length = 16 →
    let w := encode (frameZ mode cur res)
    w.length = 40 ∧ w.take 7 = [0x24, 0x24, 0x58, 0x28, mode, lo cur, hi cur] ∧
    (∀ i (r : U16), res[i]? = some r → w[7 + 2 * i]? = some (lo r) ∧ w[8 + 2 * i]? = some (hi r)) ∧
    w[39]? = some (byteSum (w.take 39)))

/-- The frames of spec/95_test_vectors.md S1, Z1, K9 and V4, and the prefixes of Y7 and D4, as bytes. -/
def Obligations.SpecVectorsDecode : Prop :=
  decode 16 [0x24, 0x24, 0x57, 0x0F, 0x0E, 0x24, 0x01, 0x00, 0xE4, 0x00, 0x83, 0x00, 0x84, 0x55, 0x21] =
    .frame (.mframe 0x0F 3620 1 228 131 132 85 0x21) [] ∧
  decode 16 [0x24, 0x24, 0x58, 0x28, 0x02, 0x02, 0x01, 0x05, 0x00, 0x0F, 0x00, 0x19, 0x00, 0x23, 0x00, 0x2D, 0x00, 0x37, 0x00,
      0x41, 0x00, 0x4B, 0x00, 0x55, 0x00, 0x5F, 0x00, 0x69, 0x00, 0x73, 0x00, 0x7D, 0x00, 0x87, 0x00, 0x91, 0x00, 0x9B, 0x00, 0xCD] =
    .frame (.zframe 0x28 2 258 [5, 15, 25, 35, 45, 55, 65, 75, 85, 95, 105, 115, 125, 135, 145, 155] 0xCD) [] ∧
  decode 16 ([0x24, 0x24, 0x57, 0x0F] ++ List.replicate 10 0xFF ++ [0xA4]) =
    .frame (.mframe 0x0F 65535 255 65535 65535 65535 255 0xA4) [] ∧
  decode 16 ([0x24, 0x24, 0x56, 0x2D] ++ List.replicate 40 0 ++ [0xCB]) =
    .frame (.vframe 0x2D (List.replicate 16 0) 0 0 0xCB) [] ∧
  decode 16 [0x24, 0x24, 0x24, 0x57] = .frame (.unknown 0x24) [0x57] ∧
  decode 16 [0x24, 0x24, 0x55] = .frame (.unknown 0x55) []

/-! ### Whole frames, byte by byte -/

/-- R60, R91 to R92, R100 to R104, R115 to R117: from the home state, the bytes of any well-formed frame, one step each, do what exec of that frame does on the state that holds it: frames as instructions and the byte machine agree. -/
def Obligations.BytesOfAFrameRunItsMeaning : Prop :=
  ∀ (s : State) (i : Instr) (rest : List Pins), Inv s → s.run = true → s.phase = .hunt → s.last ≠ 0x24 →
    i.wf s.cfgN.toNat = true → s.input = rxEdges (encode i) ++ rest →
    runSteps (encode i).length s = exec i (s.holdingFrame i rest)

/-- R122, R125, R135, R145: every frame built with a correct length and checksum is delivered, with byp = 0, and its record holds its fields. -/
def Obligations.WellBuiltFramesAreDelivered : Prop :=
  ∀ (s : State) (rest : List Pins), Inv s → s.run = true → s.phase = .hunt → s.last ≠ 0x24 →
    (∀ cells wh ah, cells.length = s.cfgN.toNat → s.input = rxEdges (encode (frameV cells wh ah)) ++ rest →
      ∃ t, runSteps (encode (frameV cells wh ah)).length s = .next t ∧ t.out = some (.record .v false) ∧ t.isHome ∧
        t.vRec = some { cells := cells, wh := wh, ah := ah, tot := BitVec.ofNat _ (cells.map BitVec.toNat).sum,
                        spread := spreadOf s.cfgK.toNat cells } ∧ t.mRec = s.mRec ∧ t.zRec = s.zRec) ∧
    (∀ eoc mode cur t1 t2 soc, s.input = rxEdges (encode (frameM eoc mode cur t1 t2 soc)) ++ rest →
      ∃ t, runSteps (encode (frameM eoc mode cur t1 t2 soc)).length s = .next t ∧ t.out = some (.record .m false) ∧ t.isHome ∧
        t.mRec = some { eoc := eoc, mode := mode, cur := cur, t1 := t1, t2 := t2, soc := soc } ∧
        t.vRec = s.vRec ∧ t.zRec = s.zRec) ∧
    (∀ mode cur res, res.length = s.cfgN.toNat → s.input = rxEdges (encode (frameZ mode cur res)) ++ rest →
      ∃ t, runSteps (encode (frameZ mode cur res)).length s = .next t ∧ t.out = some (.record .z false) ∧ t.isHome ∧
        t.zRec = some { mode := mode, cur := cur, res := res } ∧ t.vRec = s.vRec ∧ t.mRec = s.mRec)

/-- R121, first two bullets: with verification enabled, one changed byte behind the declared-length byte of a well-built frame, a field byte or the checksum byte itself, gives ChecksumMismatch and no record. -/
def Obligations.OneChangedByteIsCaught : Prop :=
  ∀ (s : State) (i : Instr) (w : Nat) (v : Byte) (rest : List Pins), Inv s → s.run = true → s.cfgCsumEn = true →
    s.phase = .hunt → s.last ≠ 0x24 → BuiltFrame s.cfgN.toNat i → 4 ≤ w → w < (encode i).length →
    (encode i)[w]? ≠ some v → s.input = rxEdges ((encode i).set w v) ++ rest →
    ∃ t a b, runSteps (encode i).length s = .next t ∧ t.out = some (.error 4 i.cmd a b) ∧ a ≠ b ∧ t.isHome ∧
      t.cntCsum = s.cntCsum + 1 ∧ t.vRec = s.vRec ∧ t.mRec = s.mRec ∧ t.zRec = s.zRec

/-- R121, R106: a changed declared-length byte of a well-built frame gives FramingError, with or without verification. -/
def Obligations.ChangedLengthByteIsFramingError : Prop :=
  ∀ (s : State) (i : Instr) (v : Byte) (rest : List Pins), Inv s → s.run = true →
    s.phase = .hunt → s.last ≠ 0x24 → BuiltFrame s.cfgN.toNat i →
    (encode i)[3]? ≠ some v → s.input = rxEdges ((encode i).set 3 v) ++ rest →
    ∃ t b, runSteps (encode i).length s = .next t ∧ t.out = some (.error 1 i.cmd v b) ∧ (encode i)[3]? = some b ∧ t.isHome ∧
      t.cntFraming = s.cntFraming + 1 ∧ t.vRec = s.vRec ∧ t.mRec = s.mRec ∧ t.zRec = s.zRec

/-! ### Scales -/

/-- R25, R9: the physical value of a raw integer is the exact rational raw / 1000, raw / 10 or raw, by register, in the unit of the table; Z_CUR has no scale (D13), exact rationals are D10, and where the source names no unit the model's unit is notNamed (log entry 14, DEDUCED). -/
def Obligations.ScalesAreExactRationals : Prop :=
  ∀ (raw : Nat) (r : ResultReg),
    (r ∈ [.vCell, .vTot, .vWh, .vAh, .sVmin, .sVmax, .mEoc] → r.physical raw = some ((raw : Rat) / 1000)) ∧
    (r ∈ [.mCur, .mT1, .mT2, .zRes] → r.physical raw = some ((raw : Rat) / 10)) ∧
    (r ∈ [.sDiff, .sMinIdx, .sMaxIdx, .mMode, .mSoc, .zMode] → r.physical raw = some (raw : Rat)) ∧
    (r = .zCur → r.physical raw = none) ∧
    (r ∈ [.vCell, .vTot, .sVmin, .sVmax, .mEoc] → r.unit = .volt) ∧ (r = .sDiff → r.unit = .millivolt) ∧
    (r = .vWh → r.unit = .wattHour) ∧ (r = .vAh → r.unit = .ampHour) ∧ (r = .zRes → r.unit = .milliohm) ∧
    (r = .mSoc → r.unit = .percent) ∧ (r ∈ [.sMinIdx, .sMaxIdx] → r.unit = .cellIndex) ∧
    (r ∈ [.mMode, .zMode] → r.unit = .enumerationCode) ∧ (r ∈ [.mCur, .mT1, .mT2, .zCur] → r.unit = .notNamed)

/-! ### Any SUPPORTED_N and CW -/

/-- R7, R14, R130, R157: for any SUPPORTED_N and any supported N ≥ 1 the derived sizes suffice: BUF holds every frame, CNT and LEN every count up to BUFSZ, S_MINIDX and S_MAXIDX every cell index, V_TOT the sum of N cells; and for the default SUPPORTED_N they are the values R7 states. The formulas are D6 and D14, taking them at the largest supported N is the model's (log entry 8). -/
def Obligations.SizesFitEverySupportedN : Prop :=
  (∀ (P : Params) (n : Byte), n ∈ P.supportedN → 1 ≤ n.toNat →
    (∀ k : Kind, k.len n.toNat ≤ P.bufSize) ∧ P.bufSize < 2 ^ P.countWidth ∧ (∀ i, i < n.toNat → i < 2 ^ P.indexWidth) ∧
    65535 * n.toNat < 2 ^ P.totalWidth) ∧
  (Config.params.supportedN = [16] ∧ Config.params.bufSize = 42 ∧ Config.params.countWidth = 6 ∧
    Config.params.indexWidth = 4 ∧ Config.params.totalWidth = 20 ∧ Config.params.counterWidth = 32)

/-- R6, R7, R190: a block with any SUPPORTED_N takes Reset(n, k, en) in any state and runs exactly if n is in its SUPPORTED_N and 1 ≤ k ≤ n; otherwise it raises ConfigurationError. K ≥ 1 is D7, SUPPORTED_N as an argument D30, code 5 D16. -/
def Obligations.AnyBlockChecksItsConfiguration : Prop :=
  ∀ (P : Params) (s : State P) (n k : Byte) (en : Bool),
    ∃ t, onEvent (.reset n k en) s = .next t ∧ t.cfgN = n ∧ t.cfgK = k ∧ t.cfgCsumEn = en ∧
      (t.run = true ↔ n ∈ P.supportedN ∧ 1 ≤ k.toNat ∧ k.toNat ≤ n.toNat) ∧
      (t.run = false → t.out = some (.error 5 0x00 n k))

/-- R107, R129, R130, R29: in a block with any SUPPORTED_N and CW an accepted V frame of N cells is delivered with their exact sum, and CNT_OK counts modulo 2^CW. The parameters are D30, the formulas D6, the bypass D9, the counter D17. -/
def Obligations.AnyBlockSumsAndCounts : Prop :=
  ∀ (P : Params) (s : State P) (declared : Byte) (cells : List U16) (wh ah : U32) (checksum : Byte) (len : Count P),
    s.run = true → s.cfgN ∈ P.supportedN → cells.length = s.cfgN.toNat → s.len = some len → declared.toNat = len.toNat + 3 →
    (s.cfgCsumEn = false ∨ s.sum = checksum) →
    ∃ t r, execute (.vframe declared cells wh ah checksum) s = .next t ∧ t.vRec = some r ∧ r.cells = cells ∧
      r.tot.toNat = (cells.map BitVec.toNat).sum ∧ t.cntOk.toNat = (s.cntOk.toNat + 1) % 2 ^ P.counterWidth

/-! ### The state type -/

/-- R10, R35: the registers are the whole state of the block. Two states with the same registers, on the same event, go to the same registers with the same output event, or stop alike, whatever further input they have pending and whatever was sent before. -/
def Obligations.OnlyTheRegistersAreState : Prop :=
  ∀ (s t : State) (e : Event), s.toRegisters = t.toRegisters → s.awaits e → t.awaits e →
    (∃ s' t', step s = .next s' ∧ step t = .next t' ∧ s'.toRegisters = t'.toRegisters ∧ s'.out = t'.out) ∨
    (∃ f, step s = .fault f ∧ step t = .fault f)
end

