-- ==== Sys2Proof/Laws/Decode.lean ====
section
/-! SUPPORT. Small lemmas of the decoder and the encoder. -/

namespace Sys2Proof

@[simp] theorem kindOfCmd_cmd (k : Kind) : kindOfCmd k.cmd = some k := by cases k <;> rfl

theorem kindOfCmd_eq_some {b : Byte} {k : Kind} (h : kindOfCmd b = some k) : b = k.cmd := by
  unfold kindOfCmd at h
  split at h
  · cases h; assumption
  · split at h
    · cases h; assumption
    · split at h
      · cases h; assumption
      · cases h

theorem kindOfCmd_eq_none {b : Byte} : kindOfCmd b = none ↔ (Instr.unknown b).wf 0 = true := by
  unfold kindOfCmd Instr.wf
  by_cases h1 : b = 0x56 <;> by_cases h2 : b = 0x57 <;> by_cases h3 : b = 0x58 <;> simp_all

/-- R67 as DOC1 writes it: `BUF[o] * 256 + BUF[o+1]`. -/
theorem be16_toNat (f : List Byte) (o : Nat) :
    (be16 f o).toNat = (byteAt f o).toNat * 256 + (byteAt f (o + 1)).toNat := by
  have h := (byteAt f (o + 1)).isLt
  simp only [be16, BitVec.toNat_append]
  rw [← Nat.shiftLeft_add_eq_or_of_lt h, Nat.shiftLeft_eq]

/-- R68 as DOC1 writes it: `BUF[o] + BUF[o+1] * 256`. -/
theorem le16_toNat (f : List Byte) (o : Nat) :
    (le16 f o).toNat = (byteAt f o).toNat + (byteAt f (o + 1)).toNat * 256 := by
  have h := (byteAt f o).isLt
  simp only [le16, BitVec.toNat_append]
  rw [← Nat.shiftLeft_add_eq_or_of_lt h, Nat.shiftLeft_eq, Nat.add_comm]

/-- R69's formula. -/
theorem le32_toNat (f : List Byte) (o : Nat) :
    (le32 f o).toNat = (byteAt f o).toNat + (byteAt f (o + 1)).toNat * 2 ^ 8 +
      (byteAt f (o + 2)).toNat * 2 ^ 16 + (byteAt f (o + 3)).toNat * 2 ^ 24 := by
  have h0 := (byteAt f o).isLt
  have h1 := (byteAt f (o + 1)).isLt
  have h2 := (byteAt f (o + 2)).isLt
  have h3 := (byteAt f (o + 3)).isLt
  have hl : ((byteAt f (o + 1)) ++ (byteAt f o)).toNat < 2 ^ 16 := BitVec.isLt _
  simp only [le32]
  rw [BitVec.toNat_append, ← Nat.shiftLeft_add_eq_or_of_lt hl, Nat.shiftLeft_eq, BitVec.toNat_append,
    ← Nat.shiftLeft_add_eq_or_of_lt h2, Nat.shiftLeft_eq, BitVec.toNat_append,
    ← Nat.shiftLeft_add_eq_or_of_lt h0, Nat.shiftLeft_eq]
  omega

@[simp] theorem hi_append (x y : Byte) : hi (x ++ y) = x := by
  apply BitVec.eq_of_toNat_eq
  have hx := x.isLt
  have hy := y.isLt
  simp only [hi, BitVec.extractLsb'_toNat, BitVec.toNat_append]
  rw [← Nat.shiftLeft_add_eq_or_of_lt hy, Nat.shiftLeft_eq, Nat.shiftRight_eq_div_pow]
  omega

@[simp] theorem lo_append (x y : Byte) : lo (x ++ y) = y := by
  apply BitVec.eq_of_toNat_eq
  have hx := x.isLt
  have hy := y.isLt
  simp only [lo, BitVec.extractLsb'_toNat, BitVec.toNat_append]
  rw [← Nat.shiftLeft_add_eq_or_of_lt hy, Nat.shiftLeft_eq, Nat.shiftRight_eq_div_pow]
  omega

@[simp] theorem hi_append_lo (x : U16) : hi x ++ lo x = x := by
  apply BitVec.eq_of_toNat_eq
  have hx := x.isLt
  have hl := (lo x).isLt
  rw [BitVec.toNat_append, ← Nat.shiftLeft_add_eq_or_of_lt hl, Nat.shiftLeft_eq]
  simp only [hi, lo, BitVec.extractLsb'_toNat, Nat.shiftRight_eq_div_pow]
  omega

@[simp] theorem bytesOf32_append (x : U32) :
    (byteOf32 3 x ++ byteOf32 2 x) ++ (byteOf32 1 x ++ byteOf32 0 x) = x := by
  apply BitVec.eq_of_toNat_eq
  have hx := x.isLt
  have h2 := (byteOf32 2 x).isLt
  have h0 := (byteOf32 0 x).isLt
  have hl : (byteOf32 1 x ++ byteOf32 0 x).toNat < 2 ^ 16 := BitVec.isLt _
  rw [BitVec.toNat_append, ← Nat.shiftLeft_add_eq_or_of_lt hl, Nat.shiftLeft_eq, BitVec.toNat_append,
    ← Nat.shiftLeft_add_eq_or_of_lt h2, Nat.shiftLeft_eq, BitVec.toNat_append,
    ← Nat.shiftLeft_add_eq_or_of_lt h0, Nat.shiftLeft_eq]
  simp only [byteOf32, BitVec.extractLsb'_toNat, Nat.shiftRight_eq_div_pow]
  omega

/-! ### Lengths -/

@[simp] theorem length_flatMap_bytesBE16 (xs : List U16) : (xs.flatMap bytesBE16).length = 2 * xs.length := by
  induction xs with
  | nil => rfl
  | cons x xs ih => simp [ih, bytesBE16]; omega

@[simp] theorem length_flatMap_bytesLE16 (xs : List U16) : (xs.flatMap bytesLE16).length = 2 * xs.length := by
  induction xs with
  | nil => rfl
  | cons x xs ih => simp [ih, bytesLE16]; omega

@[simp] theorem byteSum_append (xs ys : List Byte) : byteSum (xs ++ ys) = byteSum xs + byteSum ys := by
  induction xs with
  | nil => simp [byteSum]
  | cons x xs ih => simp [byteSum, ih, BitVec.add_assoc]

/-- The captured bytes of a frame of kind `k` are `k.len n` many (R74). -/
theorem captured_length {n : Nat} {i : Instr} {k : Kind} (hk : i.kind? = some k) (hw : i.wf n = true) :
    (i.summed ++ i.tail).length = k.len n := by
  cases i <;> simp_all [Instr.kind?, Instr.wf, Instr.summed, Instr.tail, bytesLE32, bytesBE16, bytesLE16] <;>
    subst hk <;> simp_all [Kind.len] <;> omega

/-! ### Reading bytes and fields back -/

theorem byteAt_append_left {f g : List Byte} {o : Nat} (h : o < f.length) : byteAt (f ++ g) o = byteAt f o := by
  simp [byteAt, List.getD_eq_getElem?_getD, List.getElem?_append_left h]

theorem byteAt_append_right {f g : List Byte} {o : Nat} (h : f.length ≤ o) : byteAt (f ++ g) o = byteAt g (o - f.length) := by
  simp [byteAt, List.getD_eq_getElem?_getD, List.getElem?_append_right h]

@[simp] theorem byteAt_cons_succ (b : Byte) (f : List Byte) (o : Nat) : byteAt (b :: f) (o+1) = byteAt f o := by
  simp [byteAt]

@[simp] theorem byteAt_cons_zero (b : Byte) (f : List Byte) : byteAt (b :: f) 0 = b := by simp [byteAt]

/-- The big-endian cells of a frame are read back from its bytes (R63, R67). -/
theorem map_be16_flatMap (xs : List U16) (g : List Byte) : 
   (List.range xs.length).map (fun i => be16 (xs.flatMap bytesBE16 ++ g) (2*i)) = xs := by
  induction xs with
  | nil => rfl
  | cons x xs ih =>
    rw [List.length_cons, List.range_succ_eq_map, List.map_cons, List.map_map]
    refine List.cons_eq_cons.mpr ⟨by simp [be16, bytesBE16], ?_⟩
    conv => rhs; rw [← ih]
    apply List.map_congr_left
    intro i _
    simp [be16, bytesBE16, Nat.mul_add, Function.comp]

/-- The little-endian cells of a frame are read back from its bytes (R65, R68). -/
theorem map_le16_flatMap (xs : List U16) (g : List Byte) : 
   (List.range xs.length).map (fun i => le16 (xs.flatMap bytesLE16 ++ g) (2*i)) = xs := by
  induction xs with
  | nil => rfl
  | cons x xs ih =>
    rw [List.length_cons, List.range_succ_eq_map, List.map_cons, List.map_map]
    refine List.cons_eq_cons.mpr ⟨by simp [le16, bytesLE16], ?_⟩
    conv => rhs; rw [← ih]
    apply List.map_congr_left
    intro i _
    simp [le16, bytesLE16, Nat.mul_add, Function.comp]

/-- The decoder's field map reads back every field a frame of kind `k` was encoded from (R41 to R43, R63 to R65). -/
theorem decodeFields_captured {n : Nat} {i : Instr} {k : Kind} (hk : i.kind? = some k) (hw : i.wf n = true) :
    decodeFields n (i.summed ++ i.tail) k = i := by
  cases i with
  | unknown c => cases hk
  | mframe d eoc mode cur t1 t2 soc cs =>
    cases hk
    simp [decodeFields, Instr.summed, Instr.tail, bytesBE16, be16, byteAt]
  | vframe d cells wh ah cs =>
    cases hk
    have hn : cells.length = n := by simpa [Instr.wf] using hw
    subst hn
    have hl := length_flatMap_bytesBE16 cells
    simp only [decodeFields, Instr.summed, Instr.tail, List.cons_append]
    congr 1
    · conv => rhs; rw [← map_be16_flatMap cells (bytesLE32 wh ++ bytesLE32 ah ++ [cs])]
      apply List.map_congr_left
      intro i _
      simp [be16]
    · have e : ∀ j, byteAt (d :: (cells.flatMap bytesBE16 ++ bytesLE32 wh ++ bytesLE32 ah ++ [cs])) (2 * cells.length + j + 1) = byteAt (bytesLE32 wh ++ bytesLE32 ah ++ [cs]) j := by
        intro j
        rw [byteAt_cons_succ, List.append_assoc, List.append_assoc, byteAt_append_right (by omega), hl]
        congr 1; omega
      simp only [le32]
      have e0 := e 0; have e1 := e 1; have e2 := e 2; have e3 := e 3
      simp only [Nat.add_assoc, Nat.reduceAdd] at *
      rw [e0, e1, e2, e3]
      simp only [bytesLE32, List.cons_append, List.nil_append, byteAt_cons_succ, byteAt_cons_zero]
      exact bytesOf32_append _
    · have e : ∀ j, byteAt (d :: (cells.flatMap bytesBE16 ++ bytesLE32 wh ++ bytesLE32 ah ++ [cs])) (2 * cells.length + j + 1) = byteAt (bytesLE32 wh ++ bytesLE32 ah ++ [cs]) j := by
        intro j
        rw [byteAt_cons_succ, List.append_assoc, List.append_assoc, byteAt_append_right (by omega), hl]
        congr 1; omega
      simp only [le32]
      have e0 := e 4; have e1 := e 5; have e2 := e 6; have e3 := e 7
      simp only [Nat.add_assoc, Nat.reduceAdd] at *
      rw [e0, e1, e2, e3]
      simp only [bytesLE32, List.cons_append, List.nil_append, byteAt_cons_succ, byteAt_cons_zero]
      exact bytesOf32_append _
    · rw [byteAt_cons_succ, byteAt_append_right (by simp [bytesLE32, hl])]
      simp [bytesLE32, hl]
  | zframe d mode cur res cs =>
    cases hk
    have hn : res.length = n := by simpa [Instr.wf] using hw
    subst hn
    have hl := length_flatMap_bytesLE16 res
    simp only [decodeFields, Instr.summed, Instr.tail, List.cons_append]
    congr 1
    · simp [le16, bytesLE16]
    · conv => rhs; rw [← map_le16_flatMap res [cs]]
      apply List.map_congr_left
      intro i _
      simp [le16, bytesLE16]
    · rw [show 2 * res.length + 4 = (2 * res.length + 1) + 1 + 1 + 1 by omega]
      simp only [bytesLE16, List.cons_append, List.nil_append, byteAt_cons_succ]
      rw [byteAt_append_right (by omega), hl, Nat.sub_self]; simp

theorem cmd_of_kind {i : Instr} {k : Kind} (hk : i.kind? = some k) : i.cmd = k.cmd := by
  cases i <;> cases hk <;> rfl

theorem toNat_append_four (a b c d : Byte) : ((a ++ b) ++ (c ++ d) : U32).toNat = a.toNat * 2^24 + b.toNat * 2^16 + c.toNat * 2^8 + d.toNat := by
  have hb := b.isLt
  have hd := d.isLt
  have hl : (c ++ d).toNat < 2 ^ 16 := BitVec.isLt _
  rw [BitVec.toNat_append, ← Nat.shiftLeft_add_eq_or_of_lt hl, Nat.shiftLeft_eq, BitVec.toNat_append,
    ← Nat.shiftLeft_add_eq_or_of_lt hb, Nat.shiftLeft_eq, BitVec.toNat_append,
    ← Nat.shiftLeft_add_eq_or_of_lt hd, Nat.shiftLeft_eq]
  omega

theorem byteOf32_zero_append (a b c d : Byte) : byteOf32 0 ((a ++ b) ++ (c ++ d)) = d := by
  apply BitVec.eq_of_toNat_eq
  have ha := a.isLt; have hb := b.isLt; have hc := c.isLt; have hd := d.isLt
  simp only [byteOf32, BitVec.extractLsb'_toNat, toNat_append_four, Nat.shiftRight_eq_div_pow]; omega

theorem byteOf32_one_append (a b c d : Byte) : byteOf32 1 ((a ++ b) ++ (c ++ d)) = c := by
  apply BitVec.eq_of_toNat_eq
  have ha := a.isLt; have hb := b.isLt; have hc := c.isLt; have hd := d.isLt
  simp only [byteOf32, BitVec.extractLsb'_toNat, toNat_append_four, Nat.shiftRight_eq_div_pow]; omega

theorem byteOf32_two_append (a b c d : Byte) : byteOf32 2 ((a ++ b) ++ (c ++ d)) = b := by
  apply BitVec.eq_of_toNat_eq
  have ha := a.isLt; have hb := b.isLt; have hc := c.isLt; have hd := d.isLt
  simp only [byteOf32, BitVec.extractLsb'_toNat, toNat_append_four, Nat.shiftRight_eq_div_pow]; omega

theorem byteOf32_three_append (a b c d : Byte) : byteOf32 3 ((a ++ b) ++ (c ++ d)) = a := by
  apply BitVec.eq_of_toNat_eq
  have ha := a.isLt; have hb := b.isLt; have hc := c.isLt; have hd := d.isLt
  simp only [byteOf32, BitVec.extractLsb'_toNat, toNat_append_four, Nat.shiftRight_eq_div_pow]; omega

theorem getElem?_flatMap_pairs (n : Nat) (g : Nat → List Byte) (hg : ∀ i, (g i).length = 2) : ∀ o, o < 2 * n → 
    ((List.range n).flatMap g)[o]? = (g (o/2))[o%2]? := by
  induction n with
  | zero => intro o h; omega
  | succ n ih =>
    intro o h
    have hl : ((List.range n).flatMap g).length = 2 * n := by
      simp [List.length_flatMap, hg]; omega
    rw [List.range_succ, List.flatMap_append]
    by_cases ho : o < 2 * n
    · rw [List.getElem?_append_left (by omega)]; exact ih o ho
    · rw [List.getElem?_append_right (by omega), hl]
      have : o / 2 = n := by omega
      have : o % 2 = o - 2 * n := by omega
      simp_all

/-- The frame decoded from `k.len n` captured bytes has exactly these captured bytes, is of kind `k`, and is well-formed: no captured byte belongs to no field (R72). -/
theorem captured_decodeFields {n : Nat} {f : List Byte} {k : Kind} (h : f.length = k.len n) :
    (decodeFields n f k).summed ++ (decodeFields n f k).tail = f ∧ (decodeFields n f k).kind? = some k ∧ (decodeFields n f k).wf n = true := by
  refine ⟨?_, by cases k <;> rfl, by cases k <;> simp [decodeFields, Instr.wf]⟩
  have hl : ((decodeFields n f k).summed ++ (decodeFields n f k).tail).length = k.len n :=
    captured_length (by cases k <;> rfl) (by cases k <;> simp [decodeFields, Instr.wf])
  apply List.ext_getElem?
  intro o
  by_cases ho : o < k.len n
  swap
  · rw [List.getElem?_eq_none (by omega), List.getElem?_eq_none (by omega)]
  have hb : ∀ j, j < k.len n → f[j]? = some (byteAt f j) := by
    intro j hj; simp [byteAt, List.getD_eq_getElem?_getD]; rw [List.getElem?_eq_getElem (by omega)]; simp
  rw [hb o ho]
  cases k with
  | m =>
    simp only [Kind.len] at ho
    simp only [decodeFields, Instr.summed, Instr.tail, bytesBE16, be16, hi_append, lo_append]
    interval_cases o <;> simp
  | v =>
    simp only [Kind.len] at ho
    simp only [decodeFields, Instr.summed, Instr.tail]
    have hfl : ((List.range n).map fun i => be16 f (2 * i + 1)).flatMap bytesBE16 = (List.range n).flatMap (fun i => [byteAt f (2*i+1), byteAt f (2*i+2)]) := by
      rw [List.flatMap_map]; congr 1; funext i; simp [bytesBE16, be16]
    rw [hfl]
    have hl2 : ((List.range n).flatMap (fun i => [byteAt f (2*i+1), byteAt f (2*i+2)])).length = 2 * n := by
      simp [List.length_flatMap]; omega
    rcases o with _ | o
    · simp
    · rw [List.cons_append, List.getElem?_cons_succ]
      by_cases h2 : o < 2 * n
      · rw [List.append_assoc, List.append_assoc, List.getElem?_append_left (by omega), getElem?_flatMap_pairs n _ (by simp) o h2]
        have hm : o % 2 = 0 ∨ o % 2 = 1 := by omega
        rcases hm with hm | hm <;> rw [hm] <;> simp <;> congr 1 <;> omega
      · rw [List.append_assoc, List.append_assoc, List.getElem?_append_right (by omega), hl2]
        obtain ⟨j, rfl⟩ : ∃ j, o = 2*n + j := ⟨o - 2*n, by omega⟩
        have hj : j < 9 := by omega
        have hd : 2 * n + j - 2 * n = j := by omega
        simp only [hd, bytesLE32, le32, byteOf32_zero_append, byteOf32_one_append, byteOf32_two_append, byteOf32_three_append]
        interval_cases j <;> simp
  | z =>
    simp only [Kind.len] at ho
    simp only [decodeFields, Instr.summed, Instr.tail]
    have hfl : ((List.range n).map fun i => le16 f (2 * i + 4)).flatMap bytesLE16 = (List.range n).flatMap (fun i => [byteAt f (2*i+4), byteAt f (2*i+5)]) := by
      rw [List.flatMap_map]; congr 1; funext i; simp [bytesLE16, le16]
    rw [hfl]
    have hl2 : ((List.range n).flatMap (fun i => [byteAt f (2*i+4), byteAt f (2*i+5)])).length = 2 * n := by
      simp [List.length_flatMap]; omega
    rcases o with _ | _ | _ | _ | o
    · simp
    · simp
    · simp [bytesLE16, le16]
    · simp [bytesLE16, le16]
    · simp only [bytesLE16, List.cons_append, List.nil_append, List.getElem?_cons_succ]
      by_cases h2 : o < 2 * n
      · rw [List.getElem?_append_left (by omega), getElem?_flatMap_pairs n _ (by simp) o h2]
        have hm : o % 2 = 0 ∨ o % 2 = 1 := by omega
        rcases hm with hm | hm <;> rw [hm] <;> simp <;> congr 1 <;> omega
      · have : o = 2 * n := by omega
        subst this
        rw [List.getElem?_append_right (by omega), hl2]
        simp

/-! ### The checksum byte -/

theorem dropLast_captured {i : Instr} {k : Kind} (hk : i.kind? = some k) : (i.summed ++ i.tail).dropLast = i.summed := by
  cases i with
  | unknown c => cases hk
  | _ => simp [Instr.tail]

@[simp] theorem withChecksum_summed (i : Instr) (c : Byte) : (i.withChecksum c).summed = i.summed := by cases i <;> rfl

@[simp] theorem withChecksum_cmd (i : Instr) (c : Byte) : (i.withChecksum c).cmd = i.cmd := by cases i <;> rfl

@[simp] theorem withChecksum_kind (i : Instr) (c : Byte) : (i.withChecksum c).kind? = i.kind? := by cases i <;> rfl

@[simp] theorem wireChecksum_withChecksum (i : Instr) (c : Byte) : wireChecksum (i.withChecksum c) = wireChecksum i := by simp [wireChecksum]

theorem withChecksum_tail {i : Instr} {k : Kind} (hk : i.kind? = some k) (c : Byte) : (i.withChecksum c).tail = [c] := by
  cases i with
  | unknown c => cases hk
  | _ => rfl

theorem byteSum_set (l : List Byte) (j : Nat) (v u : Byte) (h : l[j]? = some u) : byteSum (l.set j v) + u = byteSum l + v := by
  induction l generalizing j with
  | nil => simp at h
  | cons a l ih =>
    cases j with
    | zero => simp at h; subst h; simp [byteSum]; ac_rfl
    | succ j => simp at h; simp only [List.set_cons_succ, byteSum]; rw [BitVec.add_assoc, ih j h, BitVec.add_assoc]

theorem sum_toNat_le (cells : List U16) : (cells.map BitVec.toNat).sum ≤ cells.length * 65535 := by
  induction cells with
  | nil => simp
  | cons c cs ih => have := c.isLt; simp; omega

end Sys2Proof
end

