-- ==== Sys2Proof/Laws/Sizes.lean ====
section
/-! SUPPORT. The derived sizes of spec/00_scope.md R7: their values for the default parameters, and that they are large enough for every supported N. -/

namespace Sys2Proof

/-! ### The defaults: the column "value at N = 16" of R7. The widths are proved by decide, not rfl, so that simp rewrites them in numbers only, never inside a type. -/

@[simp] theorem Config.params_supportedN : Config.params.supportedN = [16] := rfl
@[simp] theorem Config.params_maxN : Config.params.maxN = 16 := rfl
@[simp] theorem Config.params_counterWidth : Config.params.counterWidth = 32 := by decide
@[simp] theorem Config.params_bufSize : Config.params.bufSize = 42 := rfl
@[simp] theorem Config.params_countWidth : Config.params.countWidth = 6 := by decide
@[simp] theorem Config.params_indexWidth : Config.params.indexWidth = 4 := by decide
@[simp] theorem Config.params_totalWidth : Config.params.totalWidth = 20 := by decide

/-! ### Every supported N fits -/

theorem le_two_pow_ceilLog2 (n : Nat) : n ≤ 2 ^ ceilLog2 n := by
  unfold ceilLog2
  split
  · simpa using ‹n ≤ 1›
  · have : n - 1 < 2 ^ (Nat.log2 (n - 1) + 1) := Nat.lt_log2_self
    omega

theorem Params.le_maxN {P : Params} {n : Byte} (h : n ∈ P.supportedN) : n.toNat ≤ P.maxN := by
  unfold Params.maxN
  generalize P.supportedN = l at h
  induction l with
  | nil => cases h
  | cons a l ih =>
    rcases List.mem_cons.mp h with rfl | h
    · exact Nat.le_max_left _ _
    · exact Nat.le_trans (ih h) (Nat.le_max_right _ _)

/-- BUFSZ bounds every frame (R7: "LEN_V is the largest of the three counts"). -/
theorem Params.len_le_bufSize {P : Params} {n : Byte} (h : n ∈ P.supportedN) (h1 : 1 ≤ n.toNat) (k : Kind) :
    k.len n.toNat ≤ P.bufSize := by
  have := Params.le_maxN h
  cases k <;> simp only [Params.bufSize, bufSizeFor, Kind.len] <;> omega

/-- CNT and LEN hold every value from 0 to BUFSZ (R14). -/
theorem Params.bufSize_lt (P : Params) : P.bufSize < 2 ^ P.countWidth := by
  have : P.bufSize + 1 ≤ 2 ^ P.countWidth := le_two_pow_ceilLog2 _
  omega

/-- S_MINIDX and S_MAXIDX hold every cell index (R157). -/
theorem Params.maxN_le (P : Params) : P.maxN ≤ 2 ^ P.indexWidth :=
  Nat.le_trans (le_two_pow_ceilLog2 _) (Nat.pow_le_pow_right (by decide) (Nat.le_max_right _ _))

/-- V_TOT holds the sum of N cells exactly (R130). -/
theorem Params.total_lt {P : Params} {n : Nat} (h : n ≤ P.maxN) : 65535 * n < 2 ^ P.totalWidth := by
  have h1 : 65536 * P.maxN ≤ 2 ^ P.totalWidth := by
    simp only [Params.totalWidth, totalWidthFor, Nat.pow_add]
    exact Nat.mul_le_mul (by decide) (le_two_pow_ceilLog2 _)
  have h2 : 0 < 2 ^ P.totalWidth := Nat.two_pow_pos _
  omega

end Sys2Proof
end

