-- ==== Sys2Proof/Laws/Memory.lean ====
section
/-! SUPPORT. BUF: read after write, and every operation keeps the canonical form. -/

namespace Sys2Proof.Machine

@[simp] theorem Memory.read_write_same (m : Memory) (x : Nat) (v : Byte) : (m.write x v).read x = some v := by
  induction m with
  | nil => simp [Memory.write, Memory.read]
  | cons c m ih =>
    obtain ⟨a, b⟩ := c
    simp only [Memory.write]
    split
    · simp [Memory.read]
    · split
      · simp [Memory.read]
      · have : a ≠ x := fun h => by omega
        simp [Memory.read, this, ih]

theorem Memory.read_write_other (m : Memory) (x y : Nat) (v : Byte) (h : y ≠ x) :
    (m.write x v).read y = m.read y := by
  induction m with
  | nil => simp [Memory.write, Memory.read, h.symm]
  | cons c m ih =>
    obtain ⟨a, b⟩ := c
    simp only [Memory.write]
    split
    · simp [Memory.read, h.symm]
    · split
      · rename_i hxa
        subst hxa
        simp [Memory.read, h.symm]
      · simp [Memory.read, ih]

theorem Memory.read_write (m : Memory) (x y : Nat) (v : Byte) :
    (m.write x v).read y = if y = x then some v else m.read y := by
  split
  · rename_i h; subst h; simp
  · rename_i h; exact Memory.read_write_other m x y v h

theorem Memory.risingFrom_write (m : Memory) (size low x : Nat) (v : Byte)
    (hm : Memory.risingFrom size low m = true) (hl : low ≤ x) (hx : x < size) :
    Memory.risingFrom size low (m.write x v) = true := by
  induction m generalizing low with
  | nil => simp [Memory.write, Memory.risingFrom, hl, hx]
  | cons c m ih =>
    obtain ⟨a, b⟩ := c
    simp only [Memory.risingFrom, Bool.and_eq_true, decide_eq_true_eq] at hm
    obtain ⟨⟨h1, h2⟩, h3⟩ := hm
    simp only [Memory.write]
    split
    · rename_i hxa
      simp only [Memory.risingFrom, Bool.and_eq_true, decide_eq_true_eq]
      exact ⟨⟨hl, hx⟩, ⟨by omega, h2⟩, h3⟩
    · split
      · rename_i hxa
        subst hxa
        simp only [Memory.risingFrom, Bool.and_eq_true, decide_eq_true_eq]
        exact ⟨⟨hl, hx⟩, h3⟩
      · simp only [Memory.risingFrom, Bool.and_eq_true, decide_eq_true_eq]
        exact ⟨⟨h1, h2⟩, ih (a + 1) h3 (by omega)⟩

/-- A write below BUFSZ keeps the canonical form. -/
theorem Memory.wf_write (m : Memory) (size x : Nat) (v : Byte) (hm : m.wf size = true) (hx : x < size) :
    (m.write x v).wf size = true := Memory.risingFrom_write m size 0 x v hm (Nat.zero_le _) hx

/-- Reset memory is canonical. -/
theorem Memory.wf_reset : State.reset.buf.wf = true := rfl

/-- storeByte: everything it can do. -/
theorem storeByte_cases {P : Params} (x : Nat) (v : Byte) (s : State P) :
    (x < P.bufSize ∧ storeByte x v s = .next (s.setBuf (s.buf.write x v))) ∨
    (P.bufSize ≤ x ∧ storeByte x v s = .fault .bufferRange) := by
  by_cases h : x < P.bufSize
  · exact .inl ⟨h, by simp [storeByte, h]⟩
  · exact .inr ⟨by omega, by simp [storeByte, h]⟩

theorem storeByte_wf {P : Params} {x : Nat} {v : Byte} {s t : State P} (h : storeByte x v s = .next t) (hs : s.buf.wf P.bufSize = true) :
    t.buf.wf P.bufSize = true := by
  rcases storeByte_cases x v s with ⟨hx, he⟩ | ⟨-, he⟩
  · rw [he] at h
    cases h
    exact Memory.wf_write _ _ _ _ hs hx
  · rw [he] at h
    cases h

end Sys2Proof.Machine
end

