-- ==== Sys2Proof/Laws/State.lean ====
section
/-! SUPPORT. One lemma per field per update of State, so that no later proof unfolds a record update. -/

namespace Sys2Proof.Machine

variable {P : Params}

/-! ### The registers right after a legal Reset (R39) -/

@[simp] theorem Registers.reset_cfgN (n k : Byte) (en : Bool) : (Registers.reset n k en : Registers P).cfgN = n := rfl
@[simp] theorem Registers.reset_cfgK (n k : Byte) (en : Bool) : (Registers.reset n k en : Registers P).cfgK = k := rfl
@[simp] theorem Registers.reset_cfgCsumEn (n k : Byte) (en : Bool) : (Registers.reset n k en : Registers P).cfgCsumEn = en := rfl
@[simp] theorem Registers.reset_run (n k : Byte) (en : Bool) : (Registers.reset n k en : Registers P).run = true := rfl
@[simp] theorem Registers.reset_phase (n k : Byte) (en : Bool) : (Registers.reset n k en : Registers P).phase = .hunt := rfl
@[simp] theorem Registers.reset_cnt (n k : Byte) (en : Bool) : (Registers.reset n k en : Registers P).cnt = 0 := rfl
@[simp] theorem Registers.reset_last (n k : Byte) (en : Bool) : (Registers.reset n k en : Registers P).last = 0x00 := rfl
@[simp] theorem Registers.reset_cmdr (n k : Byte) (en : Bool) : (Registers.reset n k en : Registers P).cmdr = 0x00 := rfl
@[simp] theorem Registers.reset_kind (n k : Byte) (en : Bool) : (Registers.reset n k en : Registers P).kind = none := rfl
@[simp] theorem Registers.reset_len (n k : Byte) (en : Bool) : (Registers.reset n k en : Registers P).len = none := rfl
@[simp] theorem Registers.reset_sum (n k : Byte) (en : Bool) : (Registers.reset n k en : Registers P).sum = 0x00 := rfl
@[simp] theorem Registers.reset_buf (n k : Byte) (en : Bool) : (Registers.reset n k en : Registers P).buf = [] := rfl
@[simp] theorem Registers.reset_vRec (n k : Byte) (en : Bool) : (Registers.reset n k en : Registers P).vRec = none := rfl
@[simp] theorem Registers.reset_mRec (n k : Byte) (en : Bool) : (Registers.reset n k en : Registers P).mRec = none := rfl
@[simp] theorem Registers.reset_zRec (n k : Byte) (en : Bool) : (Registers.reset n k en : Registers P).zRec = none := rfl
@[simp] theorem Registers.reset_errCode (n k : Byte) (en : Bool) : (Registers.reset n k en : Registers P).errCode = 0 := rfl
@[simp] theorem Registers.reset_errCmd (n k : Byte) (en : Bool) : (Registers.reset n k en : Registers P).errCmd = 0x00 := rfl
@[simp] theorem Registers.reset_errA (n k : Byte) (en : Bool) : (Registers.reset n k en : Registers P).errA = 0x00 := rfl
@[simp] theorem Registers.reset_errB (n k : Byte) (en : Bool) : (Registers.reset n k en : Registers P).errB = 0x00 := rfl
@[simp] theorem Registers.reset_cntOk (n k : Byte) (en : Bool) : (Registers.reset n k en : Registers P).cntOk = 0 := rfl
@[simp] theorem Registers.reset_cntFraming (n k : Byte) (en : Bool) : (Registers.reset n k en : Registers P).cntFraming = 0 := rfl
@[simp] theorem Registers.reset_cntUnknown (n k : Byte) (en : Bool) : (Registers.reset n k en : Registers P).cntUnknown = 0 := rfl
@[simp] theorem Registers.reset_cntTrunc (n k : Byte) (en : Bool) : (Registers.reset n k en : Registers P).cntTrunc = 0 := rfl
@[simp] theorem Registers.reset_cntCsum (n k : Byte) (en : Bool) : (Registers.reset n k en : Registers P).cntCsum = 0 := rfl
@[simp] theorem Registers.reset_cntByp (n k : Byte) (en : Bool) : (Registers.reset n k en : Registers P).cntByp = 0 := rfl

/-! ### home -/

@[simp] theorem State.home_cfgN (s : State P) : (s.home).cfgN = s.cfgN := rfl
@[simp] theorem State.home_cfgK (s : State P) : (s.home).cfgK = s.cfgK := rfl
@[simp] theorem State.home_cfgCsumEn (s : State P) : (s.home).cfgCsumEn = s.cfgCsumEn := rfl
@[simp] theorem State.home_run (s : State P) : (s.home).run = s.run := rfl
@[simp] theorem State.home_phase (s : State P) : (s.home).phase = .hunt := rfl
@[simp] theorem State.home_cnt (s : State P) : (s.home).cnt = 0 := rfl
@[simp] theorem State.home_last (s : State P) : (s.home).last = 0x00 := rfl
@[simp] theorem State.home_cmdr (s : State P) : (s.home).cmdr = s.cmdr := rfl
@[simp] theorem State.home_kind (s : State P) : (s.home).kind = s.kind := rfl
@[simp] theorem State.home_len (s : State P) : (s.home).len = s.len := rfl
@[simp] theorem State.home_sum (s : State P) : (s.home).sum = s.sum := rfl
@[simp] theorem State.home_buf (s : State P) : (s.home).buf = s.buf := rfl
@[simp] theorem State.home_vRec (s : State P) : (s.home).vRec = s.vRec := rfl
@[simp] theorem State.home_mRec (s : State P) : (s.home).mRec = s.mRec := rfl
@[simp] theorem State.home_zRec (s : State P) : (s.home).zRec = s.zRec := rfl
@[simp] theorem State.home_errCode (s : State P) : (s.home).errCode = s.errCode := rfl
@[simp] theorem State.home_errCmd (s : State P) : (s.home).errCmd = s.errCmd := rfl
@[simp] theorem State.home_errA (s : State P) : (s.home).errA = s.errA := rfl
@[simp] theorem State.home_errB (s : State P) : (s.home).errB = s.errB := rfl
@[simp] theorem State.home_cntOk (s : State P) : (s.home).cntOk = s.cntOk := rfl
@[simp] theorem State.home_cntFraming (s : State P) : (s.home).cntFraming = s.cntFraming := rfl
@[simp] theorem State.home_cntUnknown (s : State P) : (s.home).cntUnknown = s.cntUnknown := rfl
@[simp] theorem State.home_cntTrunc (s : State P) : (s.home).cntTrunc = s.cntTrunc := rfl
@[simp] theorem State.home_cntCsum (s : State P) : (s.home).cntCsum = s.cntCsum := rfl
@[simp] theorem State.home_cntByp (s : State P) : (s.home).cntByp = s.cntByp := rfl
@[simp] theorem State.home_input (s : State P) : (s.home).input = s.input := rfl
@[simp] theorem State.home_out (s : State P) : (s.home).out = s.out := rfl
@[simp] theorem State.home_sent (s : State P) : (s.home).sent = s.sent := rfl

/-! ### emit -/

@[simp] theorem State.emit_cfgN (e : OutEvent) (s : State P) : (s.emit e).cfgN = s.cfgN := rfl
@[simp] theorem State.emit_cfgK (e : OutEvent) (s : State P) : (s.emit e).cfgK = s.cfgK := rfl
@[simp] theorem State.emit_cfgCsumEn (e : OutEvent) (s : State P) : (s.emit e).cfgCsumEn = s.cfgCsumEn := rfl
@[simp] theorem State.emit_run (e : OutEvent) (s : State P) : (s.emit e).run = s.run := rfl
@[simp] theorem State.emit_phase (e : OutEvent) (s : State P) : (s.emit e).phase = s.phase := rfl
@[simp] theorem State.emit_cnt (e : OutEvent) (s : State P) : (s.emit e).cnt = s.cnt := rfl
@[simp] theorem State.emit_last (e : OutEvent) (s : State P) : (s.emit e).last = s.last := rfl
@[simp] theorem State.emit_cmdr (e : OutEvent) (s : State P) : (s.emit e).cmdr = s.cmdr := rfl
@[simp] theorem State.emit_kind (e : OutEvent) (s : State P) : (s.emit e).kind = s.kind := rfl
@[simp] theorem State.emit_len (e : OutEvent) (s : State P) : (s.emit e).len = s.len := rfl
@[simp] theorem State.emit_sum (e : OutEvent) (s : State P) : (s.emit e).sum = s.sum := rfl
@[simp] theorem State.emit_buf (e : OutEvent) (s : State P) : (s.emit e).buf = s.buf := rfl
@[simp] theorem State.emit_vRec (e : OutEvent) (s : State P) : (s.emit e).vRec = s.vRec := rfl
@[simp] theorem State.emit_mRec (e : OutEvent) (s : State P) : (s.emit e).mRec = s.mRec := rfl
@[simp] theorem State.emit_zRec (e : OutEvent) (s : State P) : (s.emit e).zRec = s.zRec := rfl
@[simp] theorem State.emit_errCode (e : OutEvent) (s : State P) : (s.emit e).errCode = s.errCode := rfl
@[simp] theorem State.emit_errCmd (e : OutEvent) (s : State P) : (s.emit e).errCmd = s.errCmd := rfl
@[simp] theorem State.emit_errA (e : OutEvent) (s : State P) : (s.emit e).errA = s.errA := rfl
@[simp] theorem State.emit_errB (e : OutEvent) (s : State P) : (s.emit e).errB = s.errB := rfl
@[simp] theorem State.emit_cntOk (e : OutEvent) (s : State P) : (s.emit e).cntOk = s.cntOk := rfl
@[simp] theorem State.emit_cntFraming (e : OutEvent) (s : State P) : (s.emit e).cntFraming = s.cntFraming := rfl
@[simp] theorem State.emit_cntUnknown (e : OutEvent) (s : State P) : (s.emit e).cntUnknown = s.cntUnknown := rfl
@[simp] theorem State.emit_cntTrunc (e : OutEvent) (s : State P) : (s.emit e).cntTrunc = s.cntTrunc := rfl
@[simp] theorem State.emit_cntCsum (e : OutEvent) (s : State P) : (s.emit e).cntCsum = s.cntCsum := rfl
@[simp] theorem State.emit_cntByp (e : OutEvent) (s : State P) : (s.emit e).cntByp = s.cntByp := rfl
@[simp] theorem State.emit_input (e : OutEvent) (s : State P) : (s.emit e).input = s.input := rfl
@[simp] theorem State.emit_out (e : OutEvent) (s : State P) : (s.emit e).out = some e := rfl
@[simp] theorem State.emit_sent (e : OutEvent) (s : State P) : (s.emit e).sent = s.sent ++ [e] := rfl

/-! ### setError -/

@[simp] theorem State.setError_cfgN (c : ErrCode) (x a b : Byte) (s : State P) : (s.setError c x a b).cfgN = s.cfgN := rfl
@[simp] theorem State.setError_cfgK (c : ErrCode) (x a b : Byte) (s : State P) : (s.setError c x a b).cfgK = s.cfgK := rfl
@[simp] theorem State.setError_cfgCsumEn (c : ErrCode) (x a b : Byte) (s : State P) : (s.setError c x a b).cfgCsumEn = s.cfgCsumEn := rfl
@[simp] theorem State.setError_run (c : ErrCode) (x a b : Byte) (s : State P) : (s.setError c x a b).run = s.run := rfl
@[simp] theorem State.setError_phase (c : ErrCode) (x a b : Byte) (s : State P) : (s.setError c x a b).phase = s.phase := rfl
@[simp] theorem State.setError_cnt (c : ErrCode) (x a b : Byte) (s : State P) : (s.setError c x a b).cnt = s.cnt := rfl
@[simp] theorem State.setError_last (c : ErrCode) (x a b : Byte) (s : State P) : (s.setError c x a b).last = s.last := rfl
@[simp] theorem State.setError_cmdr (c : ErrCode) (x a b : Byte) (s : State P) : (s.setError c x a b).cmdr = s.cmdr := rfl
@[simp] theorem State.setError_kind (c : ErrCode) (x a b : Byte) (s : State P) : (s.setError c x a b).kind = s.kind := rfl
@[simp] theorem State.setError_len (c : ErrCode) (x a b : Byte) (s : State P) : (s.setError c x a b).len = s.len := rfl
@[simp] theorem State.setError_sum (c : ErrCode) (x a b : Byte) (s : State P) : (s.setError c x a b).sum = s.sum := rfl
@[simp] theorem State.setError_buf (c : ErrCode) (x a b : Byte) (s : State P) : (s.setError c x a b).buf = s.buf := rfl
@[simp] theorem State.setError_vRec (c : ErrCode) (x a b : Byte) (s : State P) : (s.setError c x a b).vRec = s.vRec := rfl
@[simp] theorem State.setError_mRec (c : ErrCode) (x a b : Byte) (s : State P) : (s.setError c x a b).mRec = s.mRec := rfl
@[simp] theorem State.setError_zRec (c : ErrCode) (x a b : Byte) (s : State P) : (s.setError c x a b).zRec = s.zRec := rfl
@[simp] theorem State.setError_errCode (c : ErrCode) (x a b : Byte) (s : State P) : (s.setError c x a b).errCode = c := rfl
@[simp] theorem State.setError_errCmd (c : ErrCode) (x a b : Byte) (s : State P) : (s.setError c x a b).errCmd = x := rfl
@[simp] theorem State.setError_errA (c : ErrCode) (x a b : Byte) (s : State P) : (s.setError c x a b).errA = a := rfl
@[simp] theorem State.setError_errB (c : ErrCode) (x a b : Byte) (s : State P) : (s.setError c x a b).errB = b := rfl
@[simp] theorem State.setError_cntOk (c : ErrCode) (x a b : Byte) (s : State P) : (s.setError c x a b).cntOk = s.cntOk := rfl
@[simp] theorem State.setError_cntFraming (c : ErrCode) (x a b : Byte) (s : State P) : (s.setError c x a b).cntFraming = s.cntFraming := rfl
@[simp] theorem State.setError_cntUnknown (c : ErrCode) (x a b : Byte) (s : State P) : (s.setError c x a b).cntUnknown = s.cntUnknown := rfl
@[simp] theorem State.setError_cntTrunc (c : ErrCode) (x a b : Byte) (s : State P) : (s.setError c x a b).cntTrunc = s.cntTrunc := rfl
@[simp] theorem State.setError_cntCsum (c : ErrCode) (x a b : Byte) (s : State P) : (s.setError c x a b).cntCsum = s.cntCsum := rfl
@[simp] theorem State.setError_cntByp (c : ErrCode) (x a b : Byte) (s : State P) : (s.setError c x a b).cntByp = s.cntByp := rfl
@[simp] theorem State.setError_input (c : ErrCode) (x a b : Byte) (s : State P) : (s.setError c x a b).input = s.input := rfl
@[simp] theorem State.setError_out (c : ErrCode) (x a b : Byte) (s : State P) : (s.setError c x a b).out = s.out := rfl
@[simp] theorem State.setError_sent (c : ErrCode) (x a b : Byte) (s : State P) : (s.setError c x a b).sent = s.sent := rfl

/-! ### countDelivered -/

@[simp] theorem State.countDelivered_cfgN (p : Bool) (s : State P) : (s.countDelivered p).cfgN = s.cfgN := rfl
@[simp] theorem State.countDelivered_cfgK (p : Bool) (s : State P) : (s.countDelivered p).cfgK = s.cfgK := rfl
@[simp] theorem State.countDelivered_cfgCsumEn (p : Bool) (s : State P) : (s.countDelivered p).cfgCsumEn = s.cfgCsumEn := rfl
@[simp] theorem State.countDelivered_run (p : Bool) (s : State P) : (s.countDelivered p).run = s.run := rfl
@[simp] theorem State.countDelivered_phase (p : Bool) (s : State P) : (s.countDelivered p).phase = s.phase := rfl
@[simp] theorem State.countDelivered_cnt (p : Bool) (s : State P) : (s.countDelivered p).cnt = s.cnt := rfl
@[simp] theorem State.countDelivered_last (p : Bool) (s : State P) : (s.countDelivered p).last = s.last := rfl
@[simp] theorem State.countDelivered_cmdr (p : Bool) (s : State P) : (s.countDelivered p).cmdr = s.cmdr := rfl
@[simp] theorem State.countDelivered_kind (p : Bool) (s : State P) : (s.countDelivered p).kind = s.kind := rfl
@[simp] theorem State.countDelivered_len (p : Bool) (s : State P) : (s.countDelivered p).len = s.len := rfl
@[simp] theorem State.countDelivered_sum (p : Bool) (s : State P) : (s.countDelivered p).sum = s.sum := rfl
@[simp] theorem State.countDelivered_buf (p : Bool) (s : State P) : (s.countDelivered p).buf = s.buf := rfl
@[simp] theorem State.countDelivered_vRec (p : Bool) (s : State P) : (s.countDelivered p).vRec = s.vRec := rfl
@[simp] theorem State.countDelivered_mRec (p : Bool) (s : State P) : (s.countDelivered p).mRec = s.mRec := rfl
@[simp] theorem State.countDelivered_zRec (p : Bool) (s : State P) : (s.countDelivered p).zRec = s.zRec := rfl
@[simp] theorem State.countDelivered_errCode (p : Bool) (s : State P) : (s.countDelivered p).errCode = s.errCode := rfl
@[simp] theorem State.countDelivered_errCmd (p : Bool) (s : State P) : (s.countDelivered p).errCmd = s.errCmd := rfl
@[simp] theorem State.countDelivered_errA (p : Bool) (s : State P) : (s.countDelivered p).errA = s.errA := rfl
@[simp] theorem State.countDelivered_errB (p : Bool) (s : State P) : (s.countDelivered p).errB = s.errB := rfl
@[simp] theorem State.countDelivered_cntOk (p : Bool) (s : State P) : (s.countDelivered p).cntOk = s.cntOk + 1 := rfl
@[simp] theorem State.countDelivered_cntFraming (p : Bool) (s : State P) : (s.countDelivered p).cntFraming = s.cntFraming := rfl
@[simp] theorem State.countDelivered_cntUnknown (p : Bool) (s : State P) : (s.countDelivered p).cntUnknown = s.cntUnknown := rfl
@[simp] theorem State.countDelivered_cntTrunc (p : Bool) (s : State P) : (s.countDelivered p).cntTrunc = s.cntTrunc := rfl
@[simp] theorem State.countDelivered_cntCsum (p : Bool) (s : State P) : (s.countDelivered p).cntCsum = s.cntCsum := rfl
@[simp] theorem State.countDelivered_cntByp (p : Bool) (s : State P) : (s.countDelivered p).cntByp = if p then s.cntByp + 1 else s.cntByp := rfl
@[simp] theorem State.countDelivered_input (p : Bool) (s : State P) : (s.countDelivered p).input = s.input := rfl
@[simp] theorem State.countDelivered_out (p : Bool) (s : State P) : (s.countDelivered p).out = s.out := rfl
@[simp] theorem State.countDelivered_sent (p : Bool) (s : State P) : (s.countDelivered p).sent = s.sent := rfl

/-! ### consume -/

@[simp] theorem State.consume_cfgN (s : State P) : (s.consume).cfgN = s.cfgN := rfl
@[simp] theorem State.consume_cfgK (s : State P) : (s.consume).cfgK = s.cfgK := rfl
@[simp] theorem State.consume_cfgCsumEn (s : State P) : (s.consume).cfgCsumEn = s.cfgCsumEn := rfl
@[simp] theorem State.consume_run (s : State P) : (s.consume).run = s.run := rfl
@[simp] theorem State.consume_phase (s : State P) : (s.consume).phase = s.phase := rfl
@[simp] theorem State.consume_cnt (s : State P) : (s.consume).cnt = s.cnt := rfl
@[simp] theorem State.consume_last (s : State P) : (s.consume).last = s.last := rfl
@[simp] theorem State.consume_cmdr (s : State P) : (s.consume).cmdr = s.cmdr := rfl
@[simp] theorem State.consume_kind (s : State P) : (s.consume).kind = s.kind := rfl
@[simp] theorem State.consume_len (s : State P) : (s.consume).len = s.len := rfl
@[simp] theorem State.consume_sum (s : State P) : (s.consume).sum = s.sum := rfl
@[simp] theorem State.consume_buf (s : State P) : (s.consume).buf = s.buf := rfl
@[simp] theorem State.consume_vRec (s : State P) : (s.consume).vRec = s.vRec := rfl
@[simp] theorem State.consume_mRec (s : State P) : (s.consume).mRec = s.mRec := rfl
@[simp] theorem State.consume_zRec (s : State P) : (s.consume).zRec = s.zRec := rfl
@[simp] theorem State.consume_errCode (s : State P) : (s.consume).errCode = s.errCode := rfl
@[simp] theorem State.consume_errCmd (s : State P) : (s.consume).errCmd = s.errCmd := rfl
@[simp] theorem State.consume_errA (s : State P) : (s.consume).errA = s.errA := rfl
@[simp] theorem State.consume_errB (s : State P) : (s.consume).errB = s.errB := rfl
@[simp] theorem State.consume_cntOk (s : State P) : (s.consume).cntOk = s.cntOk := rfl
@[simp] theorem State.consume_cntFraming (s : State P) : (s.consume).cntFraming = s.cntFraming := rfl
@[simp] theorem State.consume_cntUnknown (s : State P) : (s.consume).cntUnknown = s.cntUnknown := rfl
@[simp] theorem State.consume_cntTrunc (s : State P) : (s.consume).cntTrunc = s.cntTrunc := rfl
@[simp] theorem State.consume_cntCsum (s : State P) : (s.consume).cntCsum = s.cntCsum := rfl
@[simp] theorem State.consume_cntByp (s : State P) : (s.consume).cntByp = s.cntByp := rfl
@[simp] theorem State.consume_input (s : State P) : (s.consume).input = s.input.tail := rfl
@[simp] theorem State.consume_out (s : State P) : (s.consume).out = none := rfl
@[simp] theorem State.consume_sent (s : State P) : (s.consume).sent = s.sent := rfl

/-! ### latchCmd -/

@[simp] theorem State.latchCmd_cfgN (b : Byte) (s : State P) : (s.latchCmd b).cfgN = s.cfgN := rfl
@[simp] theorem State.latchCmd_cfgK (b : Byte) (s : State P) : (s.latchCmd b).cfgK = s.cfgK := rfl
@[simp] theorem State.latchCmd_cfgCsumEn (b : Byte) (s : State P) : (s.latchCmd b).cfgCsumEn = s.cfgCsumEn := rfl
@[simp] theorem State.latchCmd_run (b : Byte) (s : State P) : (s.latchCmd b).run = s.run := rfl
@[simp] theorem State.latchCmd_phase (b : Byte) (s : State P) : (s.latchCmd b).phase = s.phase := rfl
@[simp] theorem State.latchCmd_cnt (b : Byte) (s : State P) : (s.latchCmd b).cnt = s.cnt := rfl
@[simp] theorem State.latchCmd_last (b : Byte) (s : State P) : (s.latchCmd b).last = s.last := rfl
@[simp] theorem State.latchCmd_cmdr (b : Byte) (s : State P) : (s.latchCmd b).cmdr = b := rfl
@[simp] theorem State.latchCmd_kind (b : Byte) (s : State P) : (s.latchCmd b).kind = s.kind := rfl
@[simp] theorem State.latchCmd_len (b : Byte) (s : State P) : (s.latchCmd b).len = s.len := rfl
@[simp] theorem State.latchCmd_sum (b : Byte) (s : State P) : (s.latchCmd b).sum = s.sum := rfl
@[simp] theorem State.latchCmd_buf (b : Byte) (s : State P) : (s.latchCmd b).buf = s.buf := rfl
@[simp] theorem State.latchCmd_vRec (b : Byte) (s : State P) : (s.latchCmd b).vRec = s.vRec := rfl
@[simp] theorem State.latchCmd_mRec (b : Byte) (s : State P) : (s.latchCmd b).mRec = s.mRec := rfl
@[simp] theorem State.latchCmd_zRec (b : Byte) (s : State P) : (s.latchCmd b).zRec = s.zRec := rfl
@[simp] theorem State.latchCmd_errCode (b : Byte) (s : State P) : (s.latchCmd b).errCode = s.errCode := rfl
@[simp] theorem State.latchCmd_errCmd (b : Byte) (s : State P) : (s.latchCmd b).errCmd = s.errCmd := rfl
@[simp] theorem State.latchCmd_errA (b : Byte) (s : State P) : (s.latchCmd b).errA = s.errA := rfl
@[simp] theorem State.latchCmd_errB (b : Byte) (s : State P) : (s.latchCmd b).errB = s.errB := rfl
@[simp] theorem State.latchCmd_cntOk (b : Byte) (s : State P) : (s.latchCmd b).cntOk = s.cntOk := rfl
@[simp] theorem State.latchCmd_cntFraming (b : Byte) (s : State P) : (s.latchCmd b).cntFraming = s.cntFraming := rfl
@[simp] theorem State.latchCmd_cntUnknown (b : Byte) (s : State P) : (s.latchCmd b).cntUnknown = s.cntUnknown := rfl
@[simp] theorem State.latchCmd_cntTrunc (b : Byte) (s : State P) : (s.latchCmd b).cntTrunc = s.cntTrunc := rfl
@[simp] theorem State.latchCmd_cntCsum (b : Byte) (s : State P) : (s.latchCmd b).cntCsum = s.cntCsum := rfl
@[simp] theorem State.latchCmd_cntByp (b : Byte) (s : State P) : (s.latchCmd b).cntByp = s.cntByp := rfl
@[simp] theorem State.latchCmd_input (b : Byte) (s : State P) : (s.latchCmd b).input = s.input := rfl
@[simp] theorem State.latchCmd_out (b : Byte) (s : State P) : (s.latchCmd b).out = s.out := rfl
@[simp] theorem State.latchCmd_sent (b : Byte) (s : State P) : (s.latchCmd b).sent = s.sent := rfl

/-! ### countByte -/

@[simp] theorem State.countByte_cfgN (b : Byte) (s : State P) : (s.countByte b).cfgN = s.cfgN := rfl
@[simp] theorem State.countByte_cfgK (b : Byte) (s : State P) : (s.countByte b).cfgK = s.cfgK := rfl
@[simp] theorem State.countByte_cfgCsumEn (b : Byte) (s : State P) : (s.countByte b).cfgCsumEn = s.cfgCsumEn := rfl
@[simp] theorem State.countByte_run (b : Byte) (s : State P) : (s.countByte b).run = s.run := rfl
@[simp] theorem State.countByte_phase (b : Byte) (s : State P) : (s.countByte b).phase = s.phase := rfl
@[simp] theorem State.countByte_cnt (b : Byte) (s : State P) : (s.countByte b).cnt = s.cnt + 1 := rfl
@[simp] theorem State.countByte_last (b : Byte) (s : State P) : (s.countByte b).last = s.last := rfl
@[simp] theorem State.countByte_cmdr (b : Byte) (s : State P) : (s.countByte b).cmdr = s.cmdr := rfl
@[simp] theorem State.countByte_kind (b : Byte) (s : State P) : (s.countByte b).kind = s.kind := rfl
@[simp] theorem State.countByte_len (b : Byte) (s : State P) : (s.countByte b).len = s.len := rfl
@[simp] theorem State.countByte_sum (b : Byte) (s : State P) : (s.countByte b).sum = accumulate s.sum b s.cnt s.curLen := rfl
@[simp] theorem State.countByte_buf (b : Byte) (s : State P) : (s.countByte b).buf = s.buf := rfl
@[simp] theorem State.countByte_vRec (b : Byte) (s : State P) : (s.countByte b).vRec = s.vRec := rfl
@[simp] theorem State.countByte_mRec (b : Byte) (s : State P) : (s.countByte b).mRec = s.mRec := rfl
@[simp] theorem State.countByte_zRec (b : Byte) (s : State P) : (s.countByte b).zRec = s.zRec := rfl
@[simp] theorem State.countByte_errCode (b : Byte) (s : State P) : (s.countByte b).errCode = s.errCode := rfl
@[simp] theorem State.countByte_errCmd (b : Byte) (s : State P) : (s.countByte b).errCmd = s.errCmd := rfl
@[simp] theorem State.countByte_errA (b : Byte) (s : State P) : (s.countByte b).errA = s.errA := rfl
@[simp] theorem State.countByte_errB (b : Byte) (s : State P) : (s.countByte b).errB = s.errB := rfl
@[simp] theorem State.countByte_cntOk (b : Byte) (s : State P) : (s.countByte b).cntOk = s.cntOk := rfl
@[simp] theorem State.countByte_cntFraming (b : Byte) (s : State P) : (s.countByte b).cntFraming = s.cntFraming := rfl
@[simp] theorem State.countByte_cntUnknown (b : Byte) (s : State P) : (s.countByte b).cntUnknown = s.cntUnknown := rfl
@[simp] theorem State.countByte_cntTrunc (b : Byte) (s : State P) : (s.countByte b).cntTrunc = s.cntTrunc := rfl
@[simp] theorem State.countByte_cntCsum (b : Byte) (s : State P) : (s.countByte b).cntCsum = s.cntCsum := rfl
@[simp] theorem State.countByte_cntByp (b : Byte) (s : State P) : (s.countByte b).cntByp = s.cntByp := rfl
@[simp] theorem State.countByte_input (b : Byte) (s : State P) : (s.countByte b).input = s.input := rfl
@[simp] theorem State.countByte_out (b : Byte) (s : State P) : (s.countByte b).out = s.out := rfl
@[simp] theorem State.countByte_sent (b : Byte) (s : State P) : (s.countByte b).sent = s.sent := rfl

/-! ### writeV -/

@[simp] theorem State.writeV_cfgN (r : VRecord P) (s : State P) : (s.writeV r).cfgN = s.cfgN := rfl
@[simp] theorem State.writeV_cfgK (r : VRecord P) (s : State P) : (s.writeV r).cfgK = s.cfgK := rfl
@[simp] theorem State.writeV_cfgCsumEn (r : VRecord P) (s : State P) : (s.writeV r).cfgCsumEn = s.cfgCsumEn := rfl
@[simp] theorem State.writeV_run (r : VRecord P) (s : State P) : (s.writeV r).run = s.run := rfl
@[simp] theorem State.writeV_phase (r : VRecord P) (s : State P) : (s.writeV r).phase = s.phase := rfl
@[simp] theorem State.writeV_cnt (r : VRecord P) (s : State P) : (s.writeV r).cnt = s.cnt := rfl
@[simp] theorem State.writeV_last (r : VRecord P) (s : State P) : (s.writeV r).last = s.last := rfl
@[simp] theorem State.writeV_cmdr (r : VRecord P) (s : State P) : (s.writeV r).cmdr = s.cmdr := rfl
@[simp] theorem State.writeV_kind (r : VRecord P) (s : State P) : (s.writeV r).kind = s.kind := rfl
@[simp] theorem State.writeV_len (r : VRecord P) (s : State P) : (s.writeV r).len = s.len := rfl
@[simp] theorem State.writeV_sum (r : VRecord P) (s : State P) : (s.writeV r).sum = s.sum := rfl
@[simp] theorem State.writeV_buf (r : VRecord P) (s : State P) : (s.writeV r).buf = s.buf := rfl
@[simp] theorem State.writeV_vRec (r : VRecord P) (s : State P) : (s.writeV r).vRec = some r := rfl
@[simp] theorem State.writeV_mRec (r : VRecord P) (s : State P) : (s.writeV r).mRec = s.mRec := rfl
@[simp] theorem State.writeV_zRec (r : VRecord P) (s : State P) : (s.writeV r).zRec = s.zRec := rfl
@[simp] theorem State.writeV_errCode (r : VRecord P) (s : State P) : (s.writeV r).errCode = s.errCode := rfl
@[simp] theorem State.writeV_errCmd (r : VRecord P) (s : State P) : (s.writeV r).errCmd = s.errCmd := rfl
@[simp] theorem State.writeV_errA (r : VRecord P) (s : State P) : (s.writeV r).errA = s.errA := rfl
@[simp] theorem State.writeV_errB (r : VRecord P) (s : State P) : (s.writeV r).errB = s.errB := rfl
@[simp] theorem State.writeV_cntOk (r : VRecord P) (s : State P) : (s.writeV r).cntOk = s.cntOk := rfl
@[simp] theorem State.writeV_cntFraming (r : VRecord P) (s : State P) : (s.writeV r).cntFraming = s.cntFraming := rfl
@[simp] theorem State.writeV_cntUnknown (r : VRecord P) (s : State P) : (s.writeV r).cntUnknown = s.cntUnknown := rfl
@[simp] theorem State.writeV_cntTrunc (r : VRecord P) (s : State P) : (s.writeV r).cntTrunc = s.cntTrunc := rfl
@[simp] theorem State.writeV_cntCsum (r : VRecord P) (s : State P) : (s.writeV r).cntCsum = s.cntCsum := rfl
@[simp] theorem State.writeV_cntByp (r : VRecord P) (s : State P) : (s.writeV r).cntByp = s.cntByp := rfl
@[simp] theorem State.writeV_input (r : VRecord P) (s : State P) : (s.writeV r).input = s.input := rfl
@[simp] theorem State.writeV_out (r : VRecord P) (s : State P) : (s.writeV r).out = s.out := rfl
@[simp] theorem State.writeV_sent (r : VRecord P) (s : State P) : (s.writeV r).sent = s.sent := rfl

/-! ### writeM -/

@[simp] theorem State.writeM_cfgN (r : MRecord) (s : State P) : (s.writeM r).cfgN = s.cfgN := rfl
@[simp] theorem State.writeM_cfgK (r : MRecord) (s : State P) : (s.writeM r).cfgK = s.cfgK := rfl
@[simp] theorem State.writeM_cfgCsumEn (r : MRecord) (s : State P) : (s.writeM r).cfgCsumEn = s.cfgCsumEn := rfl
@[simp] theorem State.writeM_run (r : MRecord) (s : State P) : (s.writeM r).run = s.run := rfl
@[simp] theorem State.writeM_phase (r : MRecord) (s : State P) : (s.writeM r).phase = s.phase := rfl
@[simp] theorem State.writeM_cnt (r : MRecord) (s : State P) : (s.writeM r).cnt = s.cnt := rfl
@[simp] theorem State.writeM_last (r : MRecord) (s : State P) : (s.writeM r).last = s.last := rfl
@[simp] theorem State.writeM_cmdr (r : MRecord) (s : State P) : (s.writeM r).cmdr = s.cmdr := rfl
@[simp] theorem State.writeM_kind (r : MRecord) (s : State P) : (s.writeM r).kind = s.kind := rfl
@[simp] theorem State.writeM_len (r : MRecord) (s : State P) : (s.writeM r).len = s.len := rfl
@[simp] theorem State.writeM_sum (r : MRecord) (s : State P) : (s.writeM r).sum = s.sum := rfl
@[simp] theorem State.writeM_buf (r : MRecord) (s : State P) : (s.writeM r).buf = s.buf := rfl
@[simp] theorem State.writeM_vRec (r : MRecord) (s : State P) : (s.writeM r).vRec = s.vRec := rfl
@[simp] theorem State.writeM_mRec (r : MRecord) (s : State P) : (s.writeM r).mRec = some r := rfl
@[simp] theorem State.writeM_zRec (r : MRecord) (s : State P) : (s.writeM r).zRec = s.zRec := rfl
@[simp] theorem State.writeM_errCode (r : MRecord) (s : State P) : (s.writeM r).errCode = s.errCode := rfl
@[simp] theorem State.writeM_errCmd (r : MRecord) (s : State P) : (s.writeM r).errCmd = s.errCmd := rfl
@[simp] theorem State.writeM_errA (r : MRecord) (s : State P) : (s.writeM r).errA = s.errA := rfl
@[simp] theorem State.writeM_errB (r : MRecord) (s : State P) : (s.writeM r).errB = s.errB := rfl
@[simp] theorem State.writeM_cntOk (r : MRecord) (s : State P) : (s.writeM r).cntOk = s.cntOk := rfl
@[simp] theorem State.writeM_cntFraming (r : MRecord) (s : State P) : (s.writeM r).cntFraming = s.cntFraming := rfl
@[simp] theorem State.writeM_cntUnknown (r : MRecord) (s : State P) : (s.writeM r).cntUnknown = s.cntUnknown := rfl
@[simp] theorem State.writeM_cntTrunc (r : MRecord) (s : State P) : (s.writeM r).cntTrunc = s.cntTrunc := rfl
@[simp] theorem State.writeM_cntCsum (r : MRecord) (s : State P) : (s.writeM r).cntCsum = s.cntCsum := rfl
@[simp] theorem State.writeM_cntByp (r : MRecord) (s : State P) : (s.writeM r).cntByp = s.cntByp := rfl
@[simp] theorem State.writeM_input (r : MRecord) (s : State P) : (s.writeM r).input = s.input := rfl
@[simp] theorem State.writeM_out (r : MRecord) (s : State P) : (s.writeM r).out = s.out := rfl
@[simp] theorem State.writeM_sent (r : MRecord) (s : State P) : (s.writeM r).sent = s.sent := rfl

/-! ### writeZ -/

@[simp] theorem State.writeZ_cfgN (r : ZRecord) (s : State P) : (s.writeZ r).cfgN = s.cfgN := rfl
@[simp] theorem State.writeZ_cfgK (r : ZRecord) (s : State P) : (s.writeZ r).cfgK = s.cfgK := rfl
@[simp] theorem State.writeZ_cfgCsumEn (r : ZRecord) (s : State P) : (s.writeZ r).cfgCsumEn = s.cfgCsumEn := rfl
@[simp] theorem State.writeZ_run (r : ZRecord) (s : State P) : (s.writeZ r).run = s.run := rfl
@[simp] theorem State.writeZ_phase (r : ZRecord) (s : State P) : (s.writeZ r).phase = s.phase := rfl
@[simp] theorem State.writeZ_cnt (r : ZRecord) (s : State P) : (s.writeZ r).cnt = s.cnt := rfl
@[simp] theorem State.writeZ_last (r : ZRecord) (s : State P) : (s.writeZ r).last = s.last := rfl
@[simp] theorem State.writeZ_cmdr (r : ZRecord) (s : State P) : (s.writeZ r).cmdr = s.cmdr := rfl
@[simp] theorem State.writeZ_kind (r : ZRecord) (s : State P) : (s.writeZ r).kind = s.kind := rfl
@[simp] theorem State.writeZ_len (r : ZRecord) (s : State P) : (s.writeZ r).len = s.len := rfl
@[simp] theorem State.writeZ_sum (r : ZRecord) (s : State P) : (s.writeZ r).sum = s.sum := rfl
@[simp] theorem State.writeZ_buf (r : ZRecord) (s : State P) : (s.writeZ r).buf = s.buf := rfl
@[simp] theorem State.writeZ_vRec (r : ZRecord) (s : State P) : (s.writeZ r).vRec = s.vRec := rfl
@[simp] theorem State.writeZ_mRec (r : ZRecord) (s : State P) : (s.writeZ r).mRec = s.mRec := rfl
@[simp] theorem State.writeZ_zRec (r : ZRecord) (s : State P) : (s.writeZ r).zRec = some r := rfl
@[simp] theorem State.writeZ_errCode (r : ZRecord) (s : State P) : (s.writeZ r).errCode = s.errCode := rfl
@[simp] theorem State.writeZ_errCmd (r : ZRecord) (s : State P) : (s.writeZ r).errCmd = s.errCmd := rfl
@[simp] theorem State.writeZ_errA (r : ZRecord) (s : State P) : (s.writeZ r).errA = s.errA := rfl
@[simp] theorem State.writeZ_errB (r : ZRecord) (s : State P) : (s.writeZ r).errB = s.errB := rfl
@[simp] theorem State.writeZ_cntOk (r : ZRecord) (s : State P) : (s.writeZ r).cntOk = s.cntOk := rfl
@[simp] theorem State.writeZ_cntFraming (r : ZRecord) (s : State P) : (s.writeZ r).cntFraming = s.cntFraming := rfl
@[simp] theorem State.writeZ_cntUnknown (r : ZRecord) (s : State P) : (s.writeZ r).cntUnknown = s.cntUnknown := rfl
@[simp] theorem State.writeZ_cntTrunc (r : ZRecord) (s : State P) : (s.writeZ r).cntTrunc = s.cntTrunc := rfl
@[simp] theorem State.writeZ_cntCsum (r : ZRecord) (s : State P) : (s.writeZ r).cntCsum = s.cntCsum := rfl
@[simp] theorem State.writeZ_cntByp (r : ZRecord) (s : State P) : (s.writeZ r).cntByp = s.cntByp := rfl
@[simp] theorem State.writeZ_input (r : ZRecord) (s : State P) : (s.writeZ r).input = s.input := rfl
@[simp] theorem State.writeZ_out (r : ZRecord) (s : State P) : (s.writeZ r).out = s.out := rfl
@[simp] theorem State.writeZ_sent (r : ZRecord) (s : State P) : (s.writeZ r).sent = s.sent := rfl

/-! ### setBuf -/

@[simp] theorem State.setBuf_cfgN (m : Memory) (s : State P) : (s.setBuf m).cfgN = s.cfgN := rfl
@[simp] theorem State.setBuf_cfgK (m : Memory) (s : State P) : (s.setBuf m).cfgK = s.cfgK := rfl
@[simp] theorem State.setBuf_cfgCsumEn (m : Memory) (s : State P) : (s.setBuf m).cfgCsumEn = s.cfgCsumEn := rfl
@[simp] theorem State.setBuf_run (m : Memory) (s : State P) : (s.setBuf m).run = s.run := rfl
@[simp] theorem State.setBuf_phase (m : Memory) (s : State P) : (s.setBuf m).phase = s.phase := rfl
@[simp] theorem State.setBuf_cnt (m : Memory) (s : State P) : (s.setBuf m).cnt = s.cnt := rfl
@[simp] theorem State.setBuf_last (m : Memory) (s : State P) : (s.setBuf m).last = s.last := rfl
@[simp] theorem State.setBuf_cmdr (m : Memory) (s : State P) : (s.setBuf m).cmdr = s.cmdr := rfl
@[simp] theorem State.setBuf_kind (m : Memory) (s : State P) : (s.setBuf m).kind = s.kind := rfl
@[simp] theorem State.setBuf_len (m : Memory) (s : State P) : (s.setBuf m).len = s.len := rfl
@[simp] theorem State.setBuf_sum (m : Memory) (s : State P) : (s.setBuf m).sum = s.sum := rfl
@[simp] theorem State.setBuf_buf (m : Memory) (s : State P) : (s.setBuf m).buf = m := rfl
@[simp] theorem State.setBuf_vRec (m : Memory) (s : State P) : (s.setBuf m).vRec = s.vRec := rfl
@[simp] theorem State.setBuf_mRec (m : Memory) (s : State P) : (s.setBuf m).mRec = s.mRec := rfl
@[simp] theorem State.setBuf_zRec (m : Memory) (s : State P) : (s.setBuf m).zRec = s.zRec := rfl
@[simp] theorem State.setBuf_errCode (m : Memory) (s : State P) : (s.setBuf m).errCode = s.errCode := rfl
@[simp] theorem State.setBuf_errCmd (m : Memory) (s : State P) : (s.setBuf m).errCmd = s.errCmd := rfl
@[simp] theorem State.setBuf_errA (m : Memory) (s : State P) : (s.setBuf m).errA = s.errA := rfl
@[simp] theorem State.setBuf_errB (m : Memory) (s : State P) : (s.setBuf m).errB = s.errB := rfl
@[simp] theorem State.setBuf_cntOk (m : Memory) (s : State P) : (s.setBuf m).cntOk = s.cntOk := rfl
@[simp] theorem State.setBuf_cntFraming (m : Memory) (s : State P) : (s.setBuf m).cntFraming = s.cntFraming := rfl
@[simp] theorem State.setBuf_cntUnknown (m : Memory) (s : State P) : (s.setBuf m).cntUnknown = s.cntUnknown := rfl
@[simp] theorem State.setBuf_cntTrunc (m : Memory) (s : State P) : (s.setBuf m).cntTrunc = s.cntTrunc := rfl
@[simp] theorem State.setBuf_cntCsum (m : Memory) (s : State P) : (s.setBuf m).cntCsum = s.cntCsum := rfl
@[simp] theorem State.setBuf_cntByp (m : Memory) (s : State P) : (s.setBuf m).cntByp = s.cntByp := rfl
@[simp] theorem State.setBuf_input (m : Memory) (s : State P) : (s.setBuf m).input = s.input := rfl
@[simp] theorem State.setBuf_out (m : Memory) (s : State P) : (s.setBuf m).out = s.out := rfl
@[simp] theorem State.setBuf_sent (m : Memory) (s : State P) : (s.setBuf m).sent = s.sent := rfl

/-! ### countError -/

@[simp] theorem State.countError_cfgN (e : ErrKind) (s : State P) : (s.countError e).cfgN = s.cfgN := by cases e <;> rfl
@[simp] theorem State.countError_cfgK (e : ErrKind) (s : State P) : (s.countError e).cfgK = s.cfgK := by cases e <;> rfl
@[simp] theorem State.countError_cfgCsumEn (e : ErrKind) (s : State P) : (s.countError e).cfgCsumEn = s.cfgCsumEn := by cases e <;> rfl
@[simp] theorem State.countError_run (e : ErrKind) (s : State P) : (s.countError e).run = s.run := by cases e <;> rfl
@[simp] theorem State.countError_phase (e : ErrKind) (s : State P) : (s.countError e).phase = s.phase := by cases e <;> rfl
@[simp] theorem State.countError_cnt (e : ErrKind) (s : State P) : (s.countError e).cnt = s.cnt := by cases e <;> rfl
@[simp] theorem State.countError_last (e : ErrKind) (s : State P) : (s.countError e).last = s.last := by cases e <;> rfl
@[simp] theorem State.countError_cmdr (e : ErrKind) (s : State P) : (s.countError e).cmdr = s.cmdr := by cases e <;> rfl
@[simp] theorem State.countError_kind (e : ErrKind) (s : State P) : (s.countError e).kind = s.kind := by cases e <;> rfl
@[simp] theorem State.countError_len (e : ErrKind) (s : State P) : (s.countError e).len = s.len := by cases e <;> rfl
@[simp] theorem State.countError_sum (e : ErrKind) (s : State P) : (s.countError e).sum = s.sum := by cases e <;> rfl
@[simp] theorem State.countError_buf (e : ErrKind) (s : State P) : (s.countError e).buf = s.buf := by cases e <;> rfl
@[simp] theorem State.countError_vRec (e : ErrKind) (s : State P) : (s.countError e).vRec = s.vRec := by cases e <;> rfl
@[simp] theorem State.countError_mRec (e : ErrKind) (s : State P) : (s.countError e).mRec = s.mRec := by cases e <;> rfl
@[simp] theorem State.countError_zRec (e : ErrKind) (s : State P) : (s.countError e).zRec = s.zRec := by cases e <;> rfl
@[simp] theorem State.countError_errCode (e : ErrKind) (s : State P) : (s.countError e).errCode = s.errCode := by cases e <;> rfl
@[simp] theorem State.countError_errCmd (e : ErrKind) (s : State P) : (s.countError e).errCmd = s.errCmd := by cases e <;> rfl
@[simp] theorem State.countError_errA (e : ErrKind) (s : State P) : (s.countError e).errA = s.errA := by cases e <;> rfl
@[simp] theorem State.countError_errB (e : ErrKind) (s : State P) : (s.countError e).errB = s.errB := by cases e <;> rfl
@[simp] theorem State.countError_cntOk (e : ErrKind) (s : State P) : (s.countError e).cntOk = s.cntOk := by cases e <;> rfl
@[simp] theorem State.countError_framing_cntFraming (s : State P) : (s.countError .framing).cntFraming = s.cntFraming + 1 := rfl
@[simp] theorem State.countError_unknownCommand_cntFraming (s : State P) : (s.countError .unknownCommand).cntFraming = s.cntFraming := rfl
@[simp] theorem State.countError_truncated_cntFraming (s : State P) : (s.countError .truncated).cntFraming = s.cntFraming := rfl
@[simp] theorem State.countError_checksumMismatch_cntFraming (s : State P) : (s.countError .checksumMismatch).cntFraming = s.cntFraming := rfl
@[simp] theorem State.countError_configuration_cntFraming (s : State P) : (s.countError .configuration).cntFraming = s.cntFraming := rfl
@[simp] theorem State.countError_framing_cntUnknown (s : State P) : (s.countError .framing).cntUnknown = s.cntUnknown := rfl
@[simp] theorem State.countError_unknownCommand_cntUnknown (s : State P) : (s.countError .unknownCommand).cntUnknown = s.cntUnknown + 1 := rfl
@[simp] theorem State.countError_truncated_cntUnknown (s : State P) : (s.countError .truncated).cntUnknown = s.cntUnknown := rfl
@[simp] theorem State.countError_checksumMismatch_cntUnknown (s : State P) : (s.countError .checksumMismatch).cntUnknown = s.cntUnknown := rfl
@[simp] theorem State.countError_configuration_cntUnknown (s : State P) : (s.countError .configuration).cntUnknown = s.cntUnknown := rfl
@[simp] theorem State.countError_framing_cntTrunc (s : State P) : (s.countError .framing).cntTrunc = s.cntTrunc := rfl
@[simp] theorem State.countError_unknownCommand_cntTrunc (s : State P) : (s.countError .unknownCommand).cntTrunc = s.cntTrunc := rfl
@[simp] theorem State.countError_truncated_cntTrunc (s : State P) : (s.countError .truncated).cntTrunc = s.cntTrunc + 1 := rfl
@[simp] theorem State.countError_checksumMismatch_cntTrunc (s : State P) : (s.countError .checksumMismatch).cntTrunc = s.cntTrunc := rfl
@[simp] theorem State.countError_configuration_cntTrunc (s : State P) : (s.countError .configuration).cntTrunc = s.cntTrunc := rfl
@[simp] theorem State.countError_framing_cntCsum (s : State P) : (s.countError .framing).cntCsum = s.cntCsum := rfl
@[simp] theorem State.countError_unknownCommand_cntCsum (s : State P) : (s.countError .unknownCommand).cntCsum = s.cntCsum := rfl
@[simp] theorem State.countError_truncated_cntCsum (s : State P) : (s.countError .truncated).cntCsum = s.cntCsum := rfl
@[simp] theorem State.countError_checksumMismatch_cntCsum (s : State P) : (s.countError .checksumMismatch).cntCsum = s.cntCsum + 1 := rfl
@[simp] theorem State.countError_configuration_cntCsum (s : State P) : (s.countError .configuration).cntCsum = s.cntCsum := rfl
@[simp] theorem State.countError_cntByp (e : ErrKind) (s : State P) : (s.countError e).cntByp = s.cntByp := by cases e <;> rfl
@[simp] theorem State.countError_input (e : ErrKind) (s : State P) : (s.countError e).input = s.input := by cases e <;> rfl
@[simp] theorem State.countError_out (e : ErrKind) (s : State P) : (s.countError e).out = s.out := by cases e <;> rfl
@[simp] theorem State.countError_sent (e : ErrKind) (s : State P) : (s.countError e).sent = s.sent := by cases e <;> rfl

end Sys2Proof.Machine
end

