-- ==== Sys2Proof/Laws/Ops.lean ====
section
/-! SUPPORT. One lemma per shared operation that says everything it can do: error entry, delivery, completion, exec, one event, one step. -/

namespace Sys2Proof.Machine

variable {P : Params}

/-! ### Error entry and delivery as one record update each (R178, R107) -/

theorem raiseError_framing (cmd a b : Byte) (s : State P) : raiseError .framing cmd a b s =
    { s with errCode := 1, errCmd := cmd, errA := a, errB := b, cntFraming := s.cntFraming + 1,
             out := some (.error 1 cmd a b), sent := s.sent ++ [.error 1 cmd a b],
             phase := .hunt, last := 0x00, cnt := 0 } := rfl

theorem raiseError_unknownCommand (cmd a b : Byte) (s : State P) : raiseError .unknownCommand cmd a b s =
    { s with errCode := 2, errCmd := cmd, errA := a, errB := b, cntUnknown := s.cntUnknown + 1,
             out := some (.error 2 cmd a b), sent := s.sent ++ [.error 2 cmd a b],
             phase := .hunt, last := 0x00, cnt := 0 } := rfl

theorem raiseError_truncated (cmd a b : Byte) (s : State P) : raiseError .truncated cmd a b s =
    { s with errCode := 3, errCmd := cmd, errA := a, errB := b, cntTrunc := s.cntTrunc + 1,
             out := some (.error 3 cmd a b), sent := s.sent ++ [.error 3 cmd a b],
             phase := .hunt, last := 0x00, cnt := 0 } := rfl

theorem raiseError_checksumMismatch (cmd a b : Byte) (s : State P) : raiseError .checksumMismatch cmd a b s =
    { s with errCode := 4, errCmd := cmd, errA := a, errB := b, cntCsum := s.cntCsum + 1,
             out := some (.error 4 cmd a b), sent := s.sent ++ [.error 4 cmd a b],
             phase := .hunt, last := 0x00, cnt := 0 } := rfl

theorem deliver_eq (k : Kind) (byp : Bool) (s : State P) : deliver k byp s =
    { s with cntOk := s.cntOk + 1, cntByp := if byp then s.cntByp + 1 else s.cntByp,
             out := some (.record k byp), sent := s.sent ++ [.record k byp],
             phase := .hunt, last := 0x00, cnt := 0 } := rfl

/-! ### Completion -/

/-- For the default sizes LEN + 3 fits a byte, and R106's comparison of integers is one of bytes. -/
theorem lengthOk_iff (declared : Byte) (len : Count) : lengthOk declared len = true ↔ declared = expectedDeclared len := by
  have h : len.toNat < 64 := len.isLt
  simp only [lengthOk, expectedDeclared, beq_iff_eq, BitVec.toNat_eq, BitVec.toNat_ofNat]
  rw [Nat.mod_eq_of_lt (by omega)]

/-- LEN + 3 as a byte, in bit vectors (default sizes). -/
theorem expectedDeclared_eq (len : Count) : expectedDeclared len = len.setWidth 8 + 3 := by
  have h : len.toNat < 64 := len.isLt
  have h3 : (3 : Byte).toNat = 3 := rfl
  simp only [expectedDeclared, BitVec.toNat_eq, BitVec.toNat_add, BitVec.toNat_setWidth, BitVec.toNat_ofNat, h3]
  omega

@[simp] theorem lengthOk_eq_true (declared : Byte) (len : Count) :
    lengthOk declared len = true ↔ declared = len.setWidth 8 + 3 := by rw [lengthOk_iff, expectedDeclared_eq]

@[simp] theorem lengthOk_eq_false (declared : Byte) (len : Count) :
    lengthOk declared len = false ↔ declared ≠ len.setWidth 8 + 3 := by
  rw [← Bool.not_eq_true, lengthOk_eq_true]

@[simp] theorem lengthOk_right (len : Count) : lengthOk (len.setWidth 8 + 3) len = true := by simp

/-- The block's meaning of a frame, at the default parameters, is the host's exec. -/
@[simp] theorem execute_eq_exec (i : Instr) (s : State) : execute i s = exec i s := by cases i <;> rfl

/-- complete: HALT, a wrong declared length, a checksum mismatch, or delivery (R183, R106, R118, R119). -/
theorem complete_cases (k : Kind) (declared checksum : Byte) (write : State → State) (s : State) :
    (s.run = false ∧ complete k declared checksum write s = .next s) ∨
    (s.run = true ∧ declared ≠ expectedDeclared s.curLen ∧
      complete k declared checksum write s = .next (raiseError .framing s.cmdr declared (expectedDeclared s.curLen) s)) ∨
    (s.run = true ∧ declared = expectedDeclared s.curLen ∧ s.cfgCsumEn = true ∧ s.sum ≠ checksum ∧
      complete k declared checksum write s = .next (raiseError .checksumMismatch s.cmdr s.sum checksum s)) ∨
    (s.run = true ∧ declared = expectedDeclared s.curLen ∧ (s.cfgCsumEn = false ∨ s.sum = checksum) ∧
      complete k declared checksum write s = .next (deliver k (s.sum != checksum) (write s))) := by
  by_cases hr : s.run = true
  · by_cases hd : lengthOk declared s.curLen = true
    · have hd' := (lengthOk_iff _ _).mp hd
      by_cases he : s.cfgCsumEn = true
      · by_cases hc : s.sum = checksum
        · exact .inr (.inr (.inr ⟨hr, hd', .inr hc, by simp [complete, hr, hd, verdict, he, hc]⟩))
        · exact .inr (.inr (.inl ⟨hr, hd', he, hc, by simp [complete, hr, hd, verdict, he, hc]⟩))
      · have he' : s.cfgCsumEn = false := by simpa using he
        exact .inr (.inr (.inr ⟨hr, hd', .inl he', by simp [complete, hr, hd, verdict, he']⟩))
    · exact .inr (.inl ⟨hr, fun h => hd ((lengthOk_iff _ _).mpr h), by simp [complete, hr, hd]⟩)
  · have hr' : s.run = false := by simpa using hr
    exact .inl ⟨hr', by simp [complete, hr']⟩

/-- A frame never stops the block: completion always answers a next state. -/
theorem complete_next (k : Kind) (declared checksum : Byte) (write : State → State) (s : State) :
    ∃ t, complete k declared checksum write s = .next t := by
  rcases complete_cases k declared checksum write s with ⟨-, h⟩ | ⟨-, -, h⟩ | ⟨-, -, -, -, h⟩ | ⟨-, -, -, h⟩ <;>
    exact ⟨_, h⟩

theorem execUnknown_cases (cmd : Byte) (s : State) :
    (s.run = false ∧ execUnknown cmd s = .next s) ∨
    (s.run = true ∧ execUnknown cmd s = .next (raiseError .unknownCommand cmd 0x00 0x00 (s.latchCmd cmd))) := by
  by_cases hr : s.run = true
  · exact .inr ⟨hr, by simp [execUnknown, hr]⟩
  · have hr' : s.run = false := by simpa using hr
    exact .inl ⟨hr', by simp [execUnknown, hr']⟩

/-- What completion writes for each frame kind: the decoder's group and nothing else. -/
def recordWrite (i : Instr) (s : State) : State :=
  match i with
  | .vframe _ cells wh ah _ => s.writeV (vRecordOf s.cfgK.toNat cells wh ah)
  | .mframe _ eoc mode cur t1 t2 soc _ => s.writeM { eoc := eoc, mode := mode, cur := cur, t1 := t1, t2 := t2, soc := soc }
  | .zframe _ mode cur res _ => s.writeZ { mode := mode, cur := cur, res := res }
  | .unknown _ => s

/-- The declared-length and checksum bytes a frame carries, with its kind. -/
def frameCheck (i : Instr) : Option (Kind × Byte × Byte) :=
  match i with
  | .vframe declared _ _ _ checksum => some (.v, declared, checksum)
  | .mframe declared _ _ _ _ _ _ checksum => some (.m, declared, checksum)
  | .zframe declared _ _ _ checksum => some (.z, declared, checksum)
  | .unknown _ => none

/-- complete depends on the decoder only through what it writes in this state. -/
theorem complete_congr {k : Kind} {d c : Byte} {w w' : State → State} {s : State} (h : w s = w' s) :
    complete k d c w s = complete k d c w' s := by simp only [complete, h]

/-- A V, M or Z frame is completion with its decoder. -/
theorem exec_frame {i : Instr} {s : State} {k : Kind} {d c : Byte} (hf : frameCheck i = some (k, d, c)) :
    exec i s = complete k d c (recordWrite i) s := by
  cases i <;> cases hf <;> exact complete_congr rfl

/-- exec: HALT, the error entry of UNKNOWN, a framing error, a checksum mismatch, or a record. -/
theorem exec_cases (i : Instr) (s : State) :
    (s.run = false ∧ exec i s = .next s) ∨
    (s.run = true ∧ frameCheck i = none ∧
      exec i s = .next (raiseError .unknownCommand i.cmd 0x00 0x00 (s.latchCmd i.cmd))) ∨
    (∃ k d c, s.run = true ∧ frameCheck i = some (k, d, c) ∧ d ≠ expectedDeclared s.curLen ∧
      exec i s = .next (raiseError .framing s.cmdr d (expectedDeclared s.curLen) s)) ∨
    (∃ k d c, s.run = true ∧ frameCheck i = some (k, d, c) ∧ d = expectedDeclared s.curLen ∧ s.cfgCsumEn = true ∧ s.sum ≠ c ∧
      exec i s = .next (raiseError .checksumMismatch s.cmdr s.sum c s)) ∨
    (∃ k d c, s.run = true ∧ frameCheck i = some (k, d, c) ∧ d = expectedDeclared s.curLen ∧ (s.cfgCsumEn = false ∨ s.sum = c) ∧
      exec i s = .next (deliver k (s.sum != c) (recordWrite i s))) := by
  cases hf : frameCheck i with
  | none =>
    cases i with
    | unknown cmd =>
      rcases execUnknown_cases cmd s with ⟨hr, h⟩ | ⟨hr, h⟩
      · exact .inl ⟨hr, h⟩
      · exact .inr (.inl ⟨hr, rfl, h⟩)
    | vframe _ _ _ _ _ => cases hf
    | mframe _ _ _ _ _ _ _ _ => cases hf
    | zframe _ _ _ _ _ => cases hf
  | some x =>
    obtain ⟨k, d, c⟩ := x
    rw [exec_frame hf]
    rcases complete_cases k d c (recordWrite i) s with ⟨hr, h⟩ | ⟨hr, hd, h⟩ | ⟨hr, hd, hce, hne, h⟩ | ⟨hr, hd, hce, h⟩
    · exact .inl ⟨hr, h⟩
    · exact .inr (.inr (.inl ⟨k, d, c, hr, rfl, hd, h⟩))
    · exact .inr (.inr (.inr (.inl ⟨k, d, c, hr, rfl, hd, hce, hne, h⟩)))
    · exact .inr (.inr (.inr (.inr ⟨k, d, c, hr, rfl, hd, hce, h⟩)))

/-- No frame faults and none is refused. -/
theorem exec_next (i : Instr) (s : State) : ∃ t, exec i s = .next t := by
  rcases exec_cases i s with ⟨-, h⟩ | ⟨-, -, h⟩ | ⟨_, _, _, -, -, -, h⟩ | ⟨_, _, _, -, -, -, -, -, h⟩ | ⟨_, _, _, -, -, -, -, h⟩ <;>
    exact ⟨_, h⟩

/-! ### One event, one step -/

/-- Rx(b) in PAYLOAD: the offset does not exist, or the byte is captured and the frame goes on, or it is captured and the frame runs (R104). -/
theorem onRxPayload_cases (b : Byte) (s : State) :
    (Config.params.bufSize ≤ s.cnt.toNat ∧ onRxPayload b s = .fault .bufferRange) ∨
    (s.cnt.toNat < Config.params.bufSize ∧ s.cnt + 1 ≠ s.curLen ∧
      onRxPayload b s = .next ((s.setBuf (s.buf.write s.cnt.toNat b)).countByte b)) ∨
    (s.cnt.toNat < Config.params.bufSize ∧ s.cnt + 1 = s.curLen ∧
      onRxPayload b s = exec (capturedFrame ((s.setBuf (s.buf.write s.cnt.toNat b)).countByte b))
        ((s.setBuf (s.buf.write s.cnt.toNat b)).countByte b)) := by
  rcases storeByte_cases s.cnt.toNat b s with ⟨hx, h⟩ | ⟨hx, h⟩
  · right
    by_cases hc : ((s.setBuf (s.buf.write s.cnt.toNat b)).countByte b).cnt =
        ((s.setBuf (s.buf.write s.cnt.toNat b)).countByte b).curLen
    · exact .inr ⟨hx, hc, by simp only [onRxPayload, h, execute_eq_exec]; exact if_pos hc⟩
    · exact .inl ⟨hx, hc, by simp only [onRxPayload, h, execute_eq_exec]; exact if_neg hc⟩
  · exact .inl ⟨hx, by simp [onRxPayload, h]⟩

/-- One event: everything it can do (R108, with HALT and Reset). -/
theorem onEvent_cases (e : Event) (s : State) :
    (∃ n k en, e = .reset n k en ∧ onEvent e s = .next (applyReset n k en s)) ∨
    ((∀ n k en, e ≠ .reset n k en) ∧ s.run = false ∧ onEvent e s = .next s) ∨
    (∃ b, e = .rx b ∧ s.run = true ∧ s.phase = .hunt ∧ onEvent e s = .next (onRxHunt b s)) ∨
    (∃ b k, e = .rx b ∧ s.run = true ∧ s.phase = .cmd ∧ kindOfCmd b = some k ∧ onEvent e s = .next (latchKnown k b s)) ∨
    (∃ b, e = .rx b ∧ s.run = true ∧ s.phase = .cmd ∧ kindOfCmd b = none ∧ onEvent e s = exec (.unknown b) s) ∨
    (∃ b, e = .rx b ∧ s.run = true ∧ s.phase = .payload ∧ onEvent e s = onRxPayload b s) ∨
    (e = .trunc ∧ s.run = true ∧ onEvent e s = .next (onTrunc s)) := by
  cases e with
  | reset n k en => exact .inl ⟨n, k, en, rfl, rfl⟩
  | rx b =>
    by_cases hr : s.run = true
    · right; right
      cases hp : s.phase with
      | hunt => exact .inl ⟨b, rfl, hr, rfl, by simp [onEvent, hr, onRx, hp]⟩
      | cmd =>
        cases hk : kindOfCmd b with
        | some k => exact .inr (.inl ⟨b, k, rfl, hr, rfl, hk, by simp [onEvent, hr, onRx, hp, onRxCmd, hk]⟩)
        | none => exact .inr (.inr (.inl ⟨b, rfl, hr, rfl, hk, by simp [onEvent, hr, onRx, hp, onRxCmd, hk]⟩))
      | payload => exact .inr (.inr (.inr (.inl ⟨b, rfl, hr, rfl, by simp [onEvent, hr, onRx, hp]⟩)))
    · have hr' : s.run = false := by simpa using hr
      exact .inr (.inl ⟨by simp, hr', by simp [onEvent, hr']⟩)
  | trunc =>
    by_cases hr : s.run = true
    · exact .inr (.inr (.inr (.inr (.inr (.inr ⟨rfl, hr, by simp [onEvent, hr]⟩)))))
    · have hr' : s.run = false := by simpa using hr
      exact .inr (.inl ⟨by simp, hr', by simp [onEvent, hr']⟩)

@[simp] theorem Event.sample_pins (e : Event) : e.pins.sample = .event e := by cases e <;> rfl

/-- One step: no event, an event, or a refused input (R36). -/
theorem step_cases (s : State) :
    (s.nextPins.sample = .idle ∧ step s = .next s.consume) ∨
    (∃ e, s.nextPins.sample = .event e ∧ step s = onEvent e s.consume) ∨
    (s.nextPins.sample = .outsideContract ∧ step s = .refused .rxWithTrunc) := by
  cases h : s.nextPins.sample with
  | idle => exact .inl ⟨rfl, by simp [step, clockEdge, onPins, h]⟩
  | event e => exact .inr (.inl ⟨e, rfl, by simp [step, clockEdge, onPins, h]⟩)
  | outsideContract => exact .inr (.inr ⟨rfl, by simp [step, clockEdge, onPins, h]⟩)

end Sys2Proof.Machine
end

