-- ==== Sys2Proof/Laws/PerInstr.lean ====
section
/-! SUPPORT. Statements about every frame as syntax, one lemma per constructor. WireLength: a well-formed frame occupies W = LEN + 3 bytes of the stream, UNKNOWN 3 (R60, R71, R109). -/

namespace Sys2Proof.Laws.WireLength

/-- R60: W = LEN + 3 for a kind; R71: UNKNOWN has W = 3. -/
def Statement (i : Instr) : Prop :=
  ∀ n, i.wf n = true → (encode i).length = (match i.kind? with | some k => k.len n | none => 0) + 3

theorem vframe (declared : Byte) (cells : List U16) (wh ah : U32) (checksum : Byte) :
    Statement (.vframe declared cells wh ah checksum) := fun _ hw =>
  congrArg (· + 3) (captured_length rfl hw)

theorem mframe (declared : Byte) (eoc : U16) (mode : Byte) (cur t1 t2 : U16) (soc checksum : Byte) :
    Statement (.mframe declared eoc mode cur t1 t2 soc checksum) := fun _ hw =>
  congrArg (· + 3) (captured_length rfl hw)

theorem zframe (declared mode : Byte) (cur : U16) (res : List U16) (checksum : Byte) :
    Statement (.zframe declared mode cur res checksum) := fun _ hw =>
  congrArg (· + 3) (captured_length rfl hw)

theorem unknown (cmd : Byte) : Statement (.unknown cmd) := fun _ _ => rfl

end Sys2Proof.Laws.WireLength
end

