-- ==== Sys2Proof/Laws/Spread.lean ====
section
/-! SUPPORT. The spread scan: what its running values mean after any number of cells (R155, R156, R158). -/

namespace Sys2Proof.Machine

/-- After the first `i` cells of `w` the running values are their minimum and maximum with the last indices that hold them. -/
structure ScanGood (w : List U16) (i : Nat) (a : Scan) : Prop where
  bnd : ∀ v ∈ w.take i, a.vmin.toNat ≤ v.toNat ∧ v.toNat ≤ a.vmax.toNat
  mi : (w.take i)[a.imin]? = some a.vmin
  ma : (w.take i)[a.imax]? = some a.vmax
  lmi : ∀ j, a.imin < j → (w.take i)[j]? ≠ some a.vmin
  lma : ∀ j, a.imax < j → (w.take i)[j]? ≠ some a.vmax

theorem ScanGood.step {w : List U16} {i : Nat} {a : Scan} {v : U16} (hv : w[i]? = some v) 
    (hg : (i = 0 ∧ a = scanStart) ∨ ScanGood w i a) : ScanGood w (i+1) (scanCell i v a) := by
  have hi : i < w.length := by
    by_contra hc
    rw [List.getElem?_eq_none (by omega)] at hv
    cases hv
  have ht : w.take (i+1) = w.take i ++ [v] := by
    rw [List.take_add_one, hv]; rfl
  have hlen : (w.take i).length = i := by simp; omega
  rcases hg with ⟨rfl, rfl⟩ | hg
  · have h1 : v ≤ 65535#16 := by rw [BitVec.le_def]; have := v.isLt; show v.toNat ≤ 65535; omega
    have h2 : v ≥ 0 := by show (0:U16) ≤ v; rw [BitVec.le_def]; simp
    have : scanCell 0 v scanStart = ⟨v, 0, v, 0⟩ := by simp [scanCell, scanStart, h1]
    rw [this]
    constructor <;> simp [ht]
    · intro j hj; cases j with
      | zero => omega
      | succ j => simp
    · intro j hj; cases j with
      | zero => omega
      | succ j => simp
  · have hget : ∀ j, (w.take (i+1))[j]? = if j = i then some v else (w.take i)[j]? := by
      intro j
      rw [ht]
      by_cases hj : j < i
      · rw [List.getElem?_append_left (by omega), if_neg (by omega)]
      · rw [List.getElem?_append_right (by omega), hlen]
        by_cases hj' : j = i
        · subst hj'; simp
        · rw [if_neg hj', List.getElem?_eq_none (by simp; omega), List.getElem?_eq_none (by omega)]
    have himin : a.imin < i := by
      have := hg.mi
      by_contra hc
      rw [List.getElem?_eq_none (by omega)] at this; cases this
    have himax : a.imax < i := by
      have := hg.ma
      by_contra hc
      rw [List.getElem?_eq_none (by omega)] at this; cases this
    have hmem : ∀ j u, (w.take i)[j]? = some u → u ∈ w.take i := fun j u h => List.mem_of_getElem? h
    have hm := hg.bnd _ (hmem _ _ hg.mi)
    constructor
    · intro u hu
      rw [ht, List.mem_append, List.mem_singleton] at hu
      simp only [scanCell]
      rcases hu with hu | rfl
      · have := hg.bnd u hu
        constructor <;> split <;> simp_all [BitVec.le_def] <;> omega
      · constructor <;> split <;> simp_all [BitVec.le_def] <;> omega
    · simp only [scanCell]; rw [hget]
      by_cases h : v ≤ a.vmin
      · simp [h]
      · simp only [h, if_false]; rw [if_neg (by omega)]; exact hg.mi
    · simp only [scanCell]; rw [hget]
      by_cases h : v ≥ a.vmax
      · simp [h]
      · simp only [h, if_false]; rw [if_neg (by omega)]; exact hg.ma
    · intro j hj
      simp only [scanCell] at *; rw [hget]
      by_cases h : v ≤ a.vmin
      · simp only [h, if_true] at *
        rw [if_neg (by omega), List.getElem?_eq_none (by omega)]; simp
      · have hne : v ≠ a.vmin := fun he => h (by rw [he]; exact BitVec.le_refl _)
        rw [if_neg h] at hj ⊢
        by_cases hji : j = i
        · rw [if_pos hji]; intro he; exact hne (Option.some.inj he)
        · rw [if_neg hji]; exact hg.lmi j hj
    · intro j hj
      simp only [scanCell] at *; rw [hget]
      by_cases h : v ≥ a.vmax
      · simp only [h, if_true] at *
        rw [if_neg (by omega), List.getElem?_eq_none (by omega)]; simp
      · have hne : v ≠ a.vmax := fun he => h (by rw [he]; exact BitVec.le_refl _)
        rw [if_neg h] at hj ⊢
        by_cases hji : j = i
        · rw [if_pos hji]; intro he; exact hne (Option.some.inj he)
        · rw [if_neg hji]; exact hg.lma j hj

theorem ScanGood.scan (w : List U16) : ∀ (vs : List U16) (i : Nat) (a : Scan), w.drop i = vs → 
    ((i = 0 ∧ a = scanStart) ∨ ScanGood w i a) → w ≠ [] → ScanGood w w.length (scanFrom i vs a) := by
  intro vs
  induction vs with
  | nil =>
    intro i a hd hg hw
    have : w.length ≤ i := by simpa using hd
    rcases hg with ⟨rfl, -⟩ | hg
    · exact absurd (List.length_eq_zero_iff.mp (by omega)) hw
    · simp only [scanFrom]
      have e : w.take i = w.take w.length := by simp [List.take_of_length_le this]
      constructor
      · rw [← e]; exact hg.bnd
      · rw [← e]; exact hg.mi
      · rw [← e]; exact hg.ma
      · rw [← e]; exact hg.lmi
      · rw [← e]; exact hg.lma
  | cons v vs ih =>
    intro i a hd hg hw
    have hv : w[i]? = some v := by
      have := congrArg (fun l => l[0]?) hd
      simpa using this
    simp only [scanFrom]
    refine ih (i+1) _ ?_ (.inr (ScanGood.step hv hg)) hw
    have := congrArg (List.drop 1) hd
    simpa using this

theorem ScanGood.spread {k : Nat} {cells : List U16} (h1 : 1 ≤ k) (h2 : k ≤ cells.length) : 
   ScanGood (cells.take k) k (scanFrom 0 (cells.take k) scanStart) := by
  have hl : (cells.take k).length = k := by simp; omega
  have := ScanGood.scan (cells.take k) (cells.take k) 0 scanStart (by simp) (.inl ⟨rfl, rfl⟩) (by
    intro h; rw [h] at hl; simp at hl; omega)
  rwa [hl] at this

end Sys2Proof.Machine
end

