-- ==== Sys2Proof/Laws/Step.lean ====
section
/-! SUPPORT. One step, and the steps of one frame: what each event does in each phase, the inversion of a step, the captured bytes, the run of a whole frame's bytes. -/

namespace Sys2Proof.Machine

/-! ### One event -/

theorem step_event {s : State} {e : Event} (h : s.awaits e) : step s = onEvent e s.consume := by
  unfold State.awaits at h
  simp [step, clockEdge, onPins, h]

theorem rx_awaits (s : State) (b : Byte) (rest : List Pins) (h : s.input = (Event.rx b).pins :: rest) :
    s.awaits (.rx b) := by simp [State.awaits, State.nextPins, h]

/-- A Reset among the next edge's possibilities, or none. -/
theorem awaits_reset_or_noReset (s : State) : (∃ n k en, s.awaits (.reset n k en)) ∨ s.noReset := by
  by_cases hn : s.noReset
  · exact .inr hn
  · simp only [State.noReset, not_forall, not_not] at hn
    exact .inl hn

theorem onEvent_rx_hunt {u : State} (b : Byte) (hr : u.run = true) (hp : u.phase = .hunt) :
    onEvent (.rx b) u = .next (onRxHunt b u) := by simp [onEvent, hr, onRx, hp]

theorem onEvent_rx_known {u : State} {b : Byte} {k : Kind} (hr : u.run = true) (hp : u.phase = .cmd)
    (hk : kindOfCmd b = some k) : onEvent (.rx b) u = .next (latchKnown k b u) := by
  simp [onEvent, hr, onRx, hp, onRxCmd, hk]

theorem onEvent_rx_unknown {u : State} {b : Byte} (hr : u.run = true) (hp : u.phase = .cmd)
    (hk : kindOfCmd b = none) : onEvent (.rx b) u = exec (.unknown b) u := by
  simp [onEvent, hr, onRx, hp, onRxCmd, hk]

theorem onEvent_rx_payload {u : State} (b : Byte) (hr : u.run = true) (hp : u.phase = .payload) :
    onEvent (.rx b) u = onRxPayload b u := by simp [onEvent, hr, onRx, hp]

theorem onEvent_trunc {u : State} (hr : u.run = true) : onEvent .trunc u = .next (onTrunc u) := by
  simp [onEvent, hr]

theorem step_hunt {s : State} {b : Byte} (hb : s.awaits (.rx b)) (hr : s.run = true) (hp : s.phase = .hunt) :
    step s = .next (onRxHunt b s.consume) := by rw [step_event hb, onEvent_rx_hunt (u := s.consume) b hr hp]

/-- Everything a step without Reset can do (R108, R183). -/
theorem step_noReset_cases {s t : State} (hn : s.noReset) (h : step s = .next t) :
    t = s.consume ∨
    (∃ b, s.awaits (.rx b) ∧ s.run = true ∧ s.phase = .hunt ∧ t = onRxHunt b s.consume) ∨
    (∃ b k, s.awaits (.rx b) ∧ s.run = true ∧ s.phase = .cmd ∧ kindOfCmd b = some k ∧ t = latchKnown k b s.consume) ∨
    (∃ b, s.awaits (.rx b) ∧ s.run = true ∧ s.phase = .cmd ∧ kindOfCmd b = none ∧ exec (.unknown b) s.consume = .next t) ∨
    (∃ b, s.awaits (.rx b) ∧ s.run = true ∧ s.phase = .payload ∧ s.cnt.toNat < 42 ∧ s.cnt + 1 ≠ s.curLen ∧
      t = (s.consume.setBuf (s.buf.write s.cnt.toNat b)).countByte b) ∨
    (∃ b, s.awaits (.rx b) ∧ s.run = true ∧ s.phase = .payload ∧ s.cnt.toNat < 42 ∧ s.cnt + 1 = s.curLen ∧
      exec (capturedFrame ((s.consume.setBuf (s.buf.write s.cnt.toNat b)).countByte b))
        ((s.consume.setBuf (s.buf.write s.cnt.toNat b)).countByte b) = .next t) ∨
    (s.awaits .trunc ∧ s.run = true ∧ t = onTrunc s.consume) := by
  rcases step_cases s with ⟨_, h1⟩ | ⟨e, he, h1⟩ | ⟨_, h1⟩
  · rw [h1] at h; cases h; exact .inl rfl
  · rw [h1] at h
    rcases onEvent_cases e s.consume with ⟨n, k, en, rfl, h2⟩ | ⟨-, hr, h2⟩ | ⟨b, rfl, hr, hp, h2⟩ |
      ⟨b, k, rfl, hr, hp, hk, h2⟩ | ⟨b, rfl, hr, hp, hk, h2⟩ | ⟨b, rfl, hr, hp, h2⟩ | ⟨rfl, hr, h2⟩
    · exact absurd he (hn n k en)
    · rw [h2] at h; cases h; exact .inl rfl
    · rw [h2] at h; cases h; exact .inr (.inl ⟨b, he, hr, hp, rfl⟩)
    · rw [h2] at h; cases h; exact .inr (.inr (.inl ⟨b, k, he, hr, hp, hk, rfl⟩))
    · rw [h2] at h; exact .inr (.inr (.inr (.inl ⟨b, he, hr, hp, hk, h⟩)))
    · rw [h2] at h
      rcases onRxPayload_cases b s.consume with ⟨h3, h4⟩ | ⟨h3, h4, h5⟩ | ⟨h3, h4, h5⟩
      · rw [h4] at h; cases h
      · rw [h5] at h; cases h; exact .inr (.inr (.inr (.inr (.inl ⟨b, he, hr, hp, h3, h4, rfl⟩))))
      · rw [h5] at h; exact .inr (.inr (.inr (.inr (.inr (.inl ⟨b, he, hr, hp, h3, h4, h⟩)))))
    · rw [h2] at h; cases h; exact .inr (.inr (.inr (.inr (.inr (.inr ⟨he, hr, rfl⟩)))))
  · rw [h1] at h; cases h

/-! ### exec -/

/-- exec inverted: nothing (HALT), one error entry, or one delivery. -/
theorem exec_next_cases {i : Instr} {s t : State} (h : exec i s = .next t) :
    (s.run = false ∧ t = s) ∨
    (∃ e x a b, e ≠ ErrKind.configuration ∧ s.run = true ∧
      t = raiseError e x a b (s.latchCmd (if frameCheck i = none then i.cmd else s.cmdr))) ∨
    (∃ k p, s.run = true ∧ i.kind? = some k ∧ t = deliver k p (recordWrite i s)) := by
  rcases exec_cases i s with ⟨hr, h1⟩ | ⟨hr, hf, h1⟩ | ⟨_, _, _, hr, hf, -, h1⟩ | ⟨_, _, _, hr, hf, -, -, -, h1⟩ |
    ⟨k, _, _, hr, hf, -, -, h1⟩ <;> rw [h1] at h <;> cases h
  · exact .inl ⟨hr, rfl⟩
  · exact .inr (.inl ⟨.unknownCommand, _, _, _, by simp, hr, by rw [if_pos hf]⟩)
  · exact .inr (.inl ⟨.framing, _, _, _, by simp, hr, by rw [if_neg (by simp [hf])]; rfl⟩)
  · exact .inr (.inl ⟨.checksumMismatch, _, _, _, by simp, hr, by rw [if_neg (by simp [hf])]; rfl⟩)
  · exact .inr (.inr ⟨k, _, hr, by cases i <;> simp_all [frameCheck, Instr.kind?], rfl⟩)

/-- A running block answers every frame with exactly one output event and the home state (R177, R180). -/
theorem exec_running {i : Instr} {s : State} (hr : s.run = true) :
    ∃ t e, exec i s = .next t ∧ t.isHome ∧ t.input = s.input ∧ t.out = some e ∧ t.sent = s.sent ++ [e] := by
  obtain ⟨t, ht⟩ := exec_next i s
  rcases exec_next_cases ht with ⟨h1, -⟩ | ⟨e, x, a, b, -, -, rfl⟩ | ⟨k, p, -, -, rfl⟩
  · rw [hr] at h1; cases h1
  · exact ⟨_, _, ht, ⟨rfl, rfl, rfl⟩, by simp [raiseError], rfl, by simp [raiseError]⟩
  · exact ⟨_, _, ht, ⟨rfl, rfl, rfl⟩, by cases i <;> simp [deliver, recordWrite], rfl,
      by cases i <;> simp [deliver, recordWrite]⟩

/-- exec reads nothing of BUF: the frame's bytes are its operands. -/
theorem exec_setBuf (i : Instr) {s t : State} (m : Memory) (h : exec i s = .next t) :
    exec i (s.setBuf m) = .next (t.setBuf m) := by
  rcases exec_cases i s with ⟨h0, h1⟩ | ⟨h0, hf, h1⟩ | ⟨k, d, c, h0, hf, h2, h1⟩ | ⟨k, d, c, h0, hf, h2, h3, h4, h1⟩ |
      ⟨k, d, c, h0, hf, h2, h3, h1⟩ <;>
    rw [h1] at h <;> cases h <;>
    rcases exec_cases i (s.setBuf m) with ⟨g0, g1⟩ | ⟨g0, gf, g1⟩ | ⟨k', d', c', g0, gf, g2, g1⟩ |
      ⟨k', d', c', g0, gf, g2, g3, g4, g1⟩ | ⟨k', d', c', g0, gf, g2, g3, g1⟩ <;>
    rw [g1] <;> simp_all [State.curLen] <;> first | rfl | (cases i <;> rfl)

theorem frameCheck_decodeFields (n : Nat) (f : List Byte) (k : Kind) :
    frameCheck (decodeFields n f k) = some (k, byteAt f 0, byteAt f (k.len n - 1)) := by cases k <;> rfl

/-! ### The invariant's parts -/

/-- A running block has N = 16 and 1 ≤ K ≤ 16 (R6). -/
theorem Inv.legal {s : State} (hi : Inv s) (hr : s.run = true) :
    s.cfgN = 16 ∧ 1 ≤ s.cfgK.toNat ∧ s.cfgK.toNat ≤ 16 := by
  have h := hi.config
  unfold ConfigInv at h
  rw [hr] at h
  replace h := h.symm
  simp only [legalConfig, Config.params_supportedN, Bool.and_eq_true, decide_eq_true_eq, List.contains_iff_mem,
    List.mem_singleton] at h
  obtain ⟨⟨h1, h2⟩, h3⟩ := h
  rw [h1] at h3
  exact ⟨h1, h2, h3⟩

/-- BUFSZ bounds every frame of a running block (R7). -/
theorem Inv.len_le {s : State} (hi : Inv s) (hr : s.run = true) (k : Kind) : k.len s.cfgN.toNat ≤ 42 := by
  obtain ⟨h16, -, -⟩ := hi.legal hr
  rw [h16]; cases k <;> simp [Kind.len]

/-- In the home state the sequencer's invariants ask for nothing more (R15, R180). -/
theorem Inv.of_home {t : State} (hh : t.isHome) (hc : ConfigInv t) (hl : HaltInv t) (he : ErrorInv t)
    (hr : RecordInv t) (hb : BufferInv t) : Inv t := by
  obtain ⟨h1, h2, h3⟩ := hh
  exact ⟨hc, ⟨by simp [h1], by simp [h3], by simp [h1]⟩, hl, he, hr, hb⟩

theorem declared_of_len {s : State} (h : s.cfgN = 16) (k : Kind) :
    (BitVec.ofNat _ (k.len s.cfgN.toNat) : Count).setWidth 8 + 3 = Kind.declared s.cfgN.toNat k := by
  rw [h]; cases k <;> rfl

/-! ### The captured bytes -/

@[simp] theorem length_captured (s : State) (n : Nat) : (captured s n).length = n := by simp [captured]

theorem byteAt_captured (s : State) (n o : Nat) (h : o < n) : byteAt (captured s n) o = bufByte s o := by
  simp [byteAt, captured, List.getD_eq_getElem?_getD, h]

theorem captured_congr {s t : State} {n : Nat} (h : ∀ o < n, t.buf.read o = s.buf.read o) :
    captured t n = captured s n := by
  simp only [captured]
  apply List.map_congr_left
  intro o ho
  simp only [bufByte]
  rw [h o (by simpa using ho)]

theorem captured_snoc (s u : State) (b : Byte) (n : Nat) (hu : u.buf = s.buf.write n b) :
    captured u (n + 1) = captured s n ++ [b] := by
  have : captured u (n + 1) = captured u n ++ [bufByte u n] := by simp [captured, List.range_succ]
  rw [this, captured_congr (s := s)]
  · simp [bufByte, hu]
  · intro o ho; rw [hu]; exact Memory.read_write_other _ _ _ _ (by omega)

theorem byteSum_captured_succ (s : State) (n : Nat) :
    byteSum (captured s (n + 1)) = byteSum (captured s n) + bufByte s n := by
  simp [captured, List.range_succ, byteSum]

theorem byteAt_captured_append (s : State) (b : Byte) (n o : Nat) (h : o < n) :
    byteAt (captured s n ++ [b]) o = bufByte s o := by
  rw [byteAt_append_left (by simpa using h), byteAt_captured _ _ _ h]

theorem byteAt_captured_last (s : State) (b : Byte) (n : Nat) : byteAt (captured s n ++ [b]) n = b := by
  rw [byteAt_append_right (by simp)]; simp

/-- The frame decoded from BUF has N cells (R63, R65). -/
theorem capturedFrame_wf (s : State) : (capturedFrame s).wf s.cfgN.toNat = true := by
  unfold capturedFrame
  cases s.curKind <;> simp [decodeFields, Instr.wf]

/-- CNT and LEN hold every number up to BUFSZ (R14). -/
theorem toNat_count {x : Nat} (h : x ≤ 42) : (BitVec.ofNat _ x : Count).toNat = x := by
  rw [BitVec.toNat_ofNat, Config.params_countWidth]; omega

theorem cnt_add_one {c : Count} (h : c.toNat < 42) : (c + 1).toNat = c.toNat + 1 := by
  have h1 : (1 : Count).toNat = 1 := rfl
  rw [BitVec.toNat_add, h1]
  exact Nat.mod_eq_of_lt (by simp only [Config.params_countWidth]; omega)

/-! ### The steps of a frame -/

/-- A byte that is not the frame's last is stored, summed and counted (R104, R116). -/
theorem step_captures {s : State} {b : Byte} {l : Count} (hr : s.run = true) (hp : s.phase = .payload)
    (hb : s.awaits (.rx b)) (hl : s.len = some l) (h42 : s.cnt.toNat < 42) (hc : s.cnt.toNat + 1 < l.toNat) :
    step s = .next { s.consume with buf := s.buf.write s.cnt.toNat b, sum := s.sum + b, cnt := s.cnt + 1 } := by
  have hcl : s.consume.curLen = l := by simp [State.curLen, hl]
  rw [step_event hb, onEvent_rx_payload (u := s.consume) b hr hp]
  rcases onRxPayload_cases b s.consume with ⟨h1, -⟩ | ⟨-, -, h1⟩ | ⟨-, h1, -⟩
  · exact absurd h1 (by simpa [Config.params_bufSize] using h42)
  · rw [h1]
    have ha : accumulate s.sum b s.cnt l = s.sum + b := if_pos hc
    simp [State.countByte, State.setBuf, State.curLen, hl, ha]
  · rw [hcl] at h1
    have h1 : s.cnt + 1 = l := h1
    rw [← h1, cnt_add_one h42] at hc
    omega

/-- The frame's last byte is stored and counted, not summed, and the frame runs (R104, R107). -/
theorem step_completes {s : State} {b : Byte} {k : Kind} (hr : s.run = true) (hp : s.phase = .payload)
    (hb : s.awaits (.rx b)) (hk : s.kind = some k) (hl : s.len = some (BitVec.ofNat _ (k.len s.cfgN.toNat)))
    (hkl : k.len s.cfgN.toNat ≤ 42) (hc : s.cnt.toNat + 1 = k.len s.cfgN.toNat) :
    step s = exec (decodeFields s.cfgN.toNat (captured s s.cnt.toNat ++ [b]) k)
      { s.consume with buf := s.buf.write s.cnt.toNat b, cnt := s.cnt + 1 } := by
  have hcl : s.consume.curLen = BitVec.ofNat _ (k.len s.cfgN.toNat) := by simp [State.curLen, hl]
  have h42 : s.cnt.toNat < 42 := by omega
  have hln : (BitVec.ofNat _ (k.len s.cfgN.toNat) : Count).toNat = s.cnt.toNat + 1 := by
    rw [toNat_count (by omega), ← hc]
  have hpos : s.cnt + 1 = BitVec.ofNat _ (k.len s.cfgN.toNat) :=
    BitVec.eq_of_toNat_eq (by rw [cnt_add_one h42, hln])
  rw [step_event hb, onEvent_rx_payload (u := s.consume) b hr hp]
  rcases onRxPayload_cases b s.consume with ⟨h1, -⟩ | ⟨-, h1, -⟩ | ⟨-, -, h1⟩
  · exact absurd h1 (by simpa [Config.params_bufSize] using h42)
  · exact absurd (hpos.trans hcl.symm) h1
  · rw [h1]
    have ha : accumulate s.sum b s.cnt (BitVec.ofNat _ (k.len s.cfgN.toNat)) = s.sum :=
      if_neg (by rw [hln]; omega)
    have hu : (s.consume.setBuf (s.consume.buf.write s.consume.cnt.toNat b)).countByte b =
        { s.consume with buf := s.buf.write s.cnt.toNat b, cnt := s.cnt + 1 } := by
      simp [State.countByte, State.setBuf, State.curLen, hl, ha]
    rw [hu]
    congr 1
    simp only [capturedFrame, State.curKind, State.consume_cfgN, State.consume_kind, hk, Option.getD_some]
    rw [← hc, captured_snoc s _ b s.cnt.toNat rfl]

/-- The captured bytes of a frame, one step each, run the frame decoded from them. -/
theorem run_capture (k : Kind) (bs : List Byte) : ∀ (s : State) (rest : List Pins), s.run = true →
    s.phase = .payload → s.latched k → k.len s.cfgN.toNat ≤ 42 → bs ≠ [] →
    s.cnt.toNat + bs.length = k.len s.cfgN.toNat → s.input = rxEdges bs ++ rest →
    runSteps bs.length s = exec (decodeFields s.cfgN.toNat (captured s s.cnt.toNat ++ bs) k)
      { s with buf := s.buf.writeAll s.cnt.toNat bs, sum := s.sum + byteSum bs.dropLast,
               cnt := BitVec.ofNat _ (k.len s.cfgN.toNat), input := rest, out := none } := by
  induction bs with
  | nil => intro s rest _ _ _ _ h; exact absurd rfl h
  | cons b bs ih =>
    intro s rest hr hp hlat hkl _ hc hin
    simp only [rxEdges, List.map_cons, List.cons_append] at hin
    have hb := rx_awaits s b _ hin
    simp only [List.length_cons] at hc
    have h42 : s.cnt.toNat < 42 := by omega
    by_cases hbs : bs = []
    · subst hbs
      have h1 := step_completes hr hp hb hlat.2.1 hlat.2.2 hkl (by simpa using hc)
      have h3 : s.cnt + 1 = BitVec.ofNat _ (k.len s.cfgN.toNat) := by
        apply BitVec.eq_of_toNat_eq; rw [BitVec.toNat_add, BitVec.toNat_ofNat, ← hc]; simp
      have h4 : ({ s with buf := s.buf.writeAll s.cnt.toNat [b], sum := s.sum + byteSum [b].dropLast,
                          cnt := BitVec.ofNat _ (k.len s.cfgN.toNat), input := rest, out := none } : State) =
          { s.consume with buf := s.buf.write s.cnt.toNat b, cnt := s.cnt + 1 } := by
        simp [State.consume, hin, Memory.writeAll, byteSum]; exact h3.symm
      obtain ⟨t, h2⟩ := exec_next (decodeFields s.cfgN.toNat (captured s s.cnt.toNat ++ [b]) k)
        { s.consume with buf := s.buf.write s.cnt.toNat b, cnt := s.cnt + 1 }
      simp only [List.length_cons, List.length_nil, runSteps, h1]
      rw [h4, h2]
    · have hpos : 0 < bs.length := List.length_pos_iff.mpr hbs
      have h1 := step_captures hr hp hb hlat.2.2 h42 (by rw [toNat_count hkl]; omega)
      simp only [List.length_cons, runSteps, h1]
      have hn := cnt_add_one h42
      rw [ih { s.consume with buf := s.buf.write s.cnt.toNat b, sum := s.sum + b, cnt := s.cnt + 1 } rest hr hp hlat
        hkl hbs (by show (s.cnt + 1).toNat + bs.length = k.len s.cfgN.toNat; omega) (by simp [hin, rxEdges])]
      simp only [hn, State.consume_cfgN]
      rw [captured_snoc s _ b s.cnt.toNat rfl]
      obtain ⟨c, cs, rfl⟩ := List.exists_cons_of_ne_nil hbs
      simp [State.consume, Memory.writeAll, byteSum, BitVec.add_assoc]

/-- The marker pair from the home state (R91, R92). -/
theorem run_markers {s : State} {inp : List Pins} (hr : s.run = true) (hp : s.phase = .hunt) (hl : s.last ≠ 0x24)
    (hin : s.input = (Event.rx 0x24).pins :: (Event.rx 0x24).pins :: inp) (n : Nat) :
    runSteps (n + 2) s = runSteps n { s with phase := .cmd, last := 0x00, input := inp, out := none } := by
  have h1 : step s = .next { s with last := 0x24, input := (Event.rx 0x24).pins :: inp, out := none } := by
    rw [step_hunt (rx_awaits s _ _ hin) hr hp, onRxHunt, if_neg (fun h => hl h.1)]
    simp [State.consume, hin]
  have h2 : step { s with last := 0x24, input := (Event.rx 0x24).pins :: inp, out := none } =
      .next { s with phase := .cmd, last := 0x00, input := inp, out := none } := by
    refine (step_hunt (s := { s with last := 0x24, input := (Event.rx 0x24).pins :: inp, out := none })
      (rx_awaits _ 0x24 inp rfl) hr hp).trans ?_
    rw [onRxHunt, if_pos ⟨rfl, rfl⟩]
    simp [State.consume]
  show runSteps (n + 1 + 1) s = _
  rw [runSteps, h1]; simp only []; rw [runSteps, h2]

/-- A known command byte (R100, R101). -/
theorem step_latches {s : State} {k : Kind} {inp : List Pins} (hr : s.run = true) (hp : s.phase = .cmd)
    (hin : s.input = (Event.rx k.cmd).pins :: inp) :
    step s = .next { s with
      cmdr := k.cmd, kind := some k, len := some (BitVec.ofNat _ (k.len s.cfgN.toNat)), cnt := 0,
      sum := prefixSum k.cmd, phase := .payload, input := inp, out := none } := by
  rw [step_event (rx_awaits s _ _ hin), onEvent_rx_known (u := s.consume) hr hp (kindOfCmd_cmd k)]
  simp [State.consume, hin, latchKnown, State.latchCmd]

/-- The marker pair, a known command and that many captured bytes, whatever they are, run the frame decoded from them. -/
theorem run_frame (s : State) (k : Kind) (bs : List Byte) (rest : List Pins) (hkl : k.len s.cfgN.toNat ≤ 42)
    (hr : s.run = true) (hp : s.phase = .hunt) (hl : s.last ≠ 0x24) (hbs : bs.length = k.len s.cfgN.toNat)
    (hin : s.input = rxEdges (mark :: mark :: k.cmd :: bs) ++ rest) :
    runSteps (bs.length + 3) s = exec (decodeFields s.cfgN.toNat bs k) { s with
      cmdr := k.cmd, kind := some k, len := some (BitVec.ofNat _ (k.len s.cfgN.toNat)),
      cnt := BitVec.ofNat _ (k.len s.cfgN.toNat), sum := prefixSum k.cmd + byteSum bs.dropLast,
      buf := s.buf.writeAll 0 bs, phase := .payload, last := 0x00, input := rest, out := none } := by
  have hpos : 0 < k.len s.cfgN.toNat := by cases k <;> simp [Kind.len]
  simp only [rxEdges, List.map_cons, List.cons_append] at hin
  have h3 := step_latches (s := { s with phase := .cmd, last := 0x00, input := (Event.rx k.cmd).pins :: (rxEdges bs ++ rest), out := none })
    hr rfl rfl
  show runSteps (bs.length + 1 + 2) s = _
  rw [run_markers hr hp hl hin, runSteps]
  unfold rxEdges at h3
  rw [h3]
  simp only []
  refine (run_capture k bs { s with
      cmdr := k.cmd, kind := some k, len := some (BitVec.ofNat _ (k.len s.cfgN.toNat)), cnt := 0,
      sum := prefixSum k.cmd, phase := .payload, last := 0x00, input := rxEdges bs ++ rest, out := none } rest
    hr rfl ⟨rfl, rfl, rfl⟩ hkl (by rintro rfl; simp at hbs; omega) (by simp [hbs]) rfl).trans ?_
  simp [captured]

/-! ### Well-built frames (R75) -/

theorem BuiltFrame.facts {n : Nat} {i : Instr} (h : BuiltFrame n i) :
    ∃ k : Kind, i.kind? = some k ∧ i.wf n = true ∧ i.tail = [wireChecksum i] ∧
      i.summed.head? = some (Kind.declared n k) := by
  rcases h with ⟨cells, wh, ah, hc, rfl⟩ | ⟨eoc, mode, cur, t1, t2, soc, rfl⟩ | ⟨mode, cur, res, hc, rfl⟩
  · exact ⟨.v, rfl, by simp [frameV, Instr.sealed, Instr.withChecksum, Instr.wf, hc],
      by simp [frameV, Instr.sealed]; rfl, by subst hc; rfl⟩
  · exact ⟨.m, rfl, rfl, by simp [frameM, Instr.sealed]; rfl, rfl⟩
  · exact ⟨.z, rfl, by simp [frameZ, Instr.sealed, Instr.withChecksum, Instr.wf, hc],
      by simp [frameZ, Instr.sealed]; rfl, by subst hc; rfl⟩

end Sys2Proof.Machine
end

