-- ==== Sys2Proof/Tests/Slice0.lean ====
section
/-! SUPPORT. The model's own tests: WellFormed refuses ill-formed terms, the decoder reads words written out from spec/30_encoding.md and spec/95_test_vectors.md, small steps with the results the spec's vectors give, and for every statement with hypotheses a named witness (test_meets_…) that meets them. Every expected value is the spec's. -/

namespace Sys2Proof.Tests

open Sys2Proof Sys2Proof.Machine

/-! ### Helpers -/

/-- The next state of an outcome. -/
def stateOf : Outcome → Option State
  | .next t => some t
  | .fault _ => none
  | .refused _ => none

/-- The state after Reset(16, k, en), the given events coming next. -/
def home (k : Byte) (en : Bool) (es : List Event) : State :=
  { State.reset with cfgK := k, cfgCsumEn := en, input := es.map Event.pins }

/-- Phase HUNT with one marker seen. -/
def afterMarker (es : List Event) : State := { home 16 true es with last := 0x24 }

/-- Phase CMD. -/
def inCmd (es : List Event) : State := { home 16 true es with phase := .cmd }

/-- Phase PAYLOAD of kind `k` with the bytes `f` captured. -/
def inPayload (k : Kind) (kw : Byte) (en : Bool) (f : List Byte) (es : List Event) : State :=
  { home kw en es with
    phase := .payload, cmdr := k.cmd, kind := some k, len := some (BitVec.ofNat _ (k.len 16)),
    cnt := BitVec.ofNat _ f.length, sum := prefixSum k.cmd + byteSum f, buf := Memory.writeAll [] 0 f }

/-- The state after Reset(16, 17, 1). -/
def halted (es : List Event) : State := { applyReset 16 17 true State.reset with input := es.map Event.pins }

/-- Vector S1: the captured bytes. -/
def s1 : List Byte := [0x0F, 0x0E, 0x24, 0x01, 0x00, 0xE4, 0x00, 0x83, 0x00, 0x84, 0x55, 0x21]

/-- Vector V1: the captured bytes. -/
def v1 : List Byte :=
  [0x2D, 0x0C, 0xE4, 0x0C, 0xE9, 0x0C, 0xE2, 0x0C, 0xEE, 0x0C, 0xE2, 0x0C, 0xEE, 0x0C, 0xE5, 0x0C, 0xE3] ++
  [0x0D, 0x48, 0x0C, 0x80, 0, 0, 0, 0, 0, 0, 0, 0, 0, 0, 0xFF, 0xFF] ++
  [0x40, 0xE2, 0x01, 0x00, 0xD2, 0x1E, 0x00, 0x00, 0x52]

/-- Vector V1: the cells. -/
def v1Cells : List U16 := [3300, 3305, 3298, 3310, 3298, 3310, 3301, 3299, 3400, 3200, 0, 0, 0, 0, 0, 65535]

/-- Vector Z1: the captured bytes. -/
def z1 : List Byte :=
  [0x28, 0x02, 0x02, 0x01] ++
  [0x05, 0, 0x0F, 0, 0x19, 0, 0x23, 0, 0x2D, 0, 0x37, 0, 0x41, 0, 0x4B, 0] ++
  [0x55, 0, 0x5F, 0, 0x69, 0, 0x73, 0, 0x7D, 0, 0x87, 0, 0x91, 0, 0x9B, 0] ++ [0xCD]

/-- Vector Z1: the resistances. -/
def z1Res : List U16 := [5, 15, 25, 35, 45, 55, 65, 75, 85, 95, 105, 115, 125, 135, 145, 155]

/-- The S1 frame with all its bytes but the last captured, `b` coming as the last. -/
def s1Last (en : Bool) (b : Byte) : State := inPayload .m 16 en s1.dropLast [.rx b]

/-! ### WellFormed refuses ill-formed terms -/

theorem test_wf_vframe_needs_n_cells : (Instr.vframe 0x2D (List.replicate 15 0) 0 0 0).wf 16 = false := by decide
theorem test_wf_zframe_needs_n_cells : (Instr.zframe 0x28 0 0 (List.replicate 17 0) 0).wf 16 = false := by decide
theorem test_wf_unknown_is_none_of_the_three :
    (Instr.unknown 0x56).wf 16 = false ∧ (Instr.unknown 0x57).wf 16 = false ∧ (Instr.unknown 0x58).wf 16 = false := by
  decide

/-! ### The decoder on words of the spec (R60, R63 to R65, R71) -/

/-- V1, prefix in bits. -/
theorem test_decode_vframe :
    decode 16 ([0b00100100, 0b00100100, 0b01010110] ++ v1) = .frame (.vframe 0x2D v1Cells 123456 7890 0x52) [] := by decide

/-- S1, prefix in bits. -/
theorem test_decode_mframe :
    decode 16 ([0b00100100, 0b00100100, 0b01010111] ++ s1) = .frame (.mframe 0x0F 3620 1 228 131 132 85 0x21) [] := by decide

/-- Z1, prefix in bits. -/
theorem test_decode_zframe :
    decode 16 ([0b00100100, 0b00100100, 0b01011000] ++ z1) = .frame (.zframe 0x28 2 258 z1Res 0xCD) [] := by decide

/-- D7, prefix in bits; the byte behind it belongs to no frame. -/
theorem test_decode_unknown :
    decode 16 [0b00100100, 0b00100100, 0b11111111, 0x00] = .frame (.unknown 0xFF) [0x00] := by decide

/-- Z2 tells the byte orders apart: bytes 00 FF are 65280, bytes 00 01 are 256. -/
theorem test_decode_byte_orders :
    (decode 16 ([0x24, 0x24, 0x58, 0x28, 0x00, 0x00, 0xFF, 0xFF, 0xFF, 0x00, 0x01, 0x01, 0x00] ++ List.replicate 26 0 ++ [0xC7])) =
      .frame (.zframe 0x28 0 65280 ([65535, 256, 1] ++ List.replicate 13 0) 0xC7) [] := by decide

theorem test_decode_rejects_by_name :
    decode 16 [0x24, 0x41, 0x57] = .rejected .noMarkerPair ∧ decode 16 [0x24, 0x24] = .rejected .incomplete ∧
    decode 16 ([0x24, 0x24, 0x57] ++ s1.dropLast) = .rejected .incomplete := by decide

/-- R75: the constructors give the vectors' bytes; of V1 the checksum. -/
theorem test_constructor_v : wireChecksum (frameV v1Cells 123456 7890) = 0x52 := by decide
theorem test_constructor_m : encode (frameM 3620 1 228 131 132 85) = [0x24, 0x24, 0x57] ++ s1 := by decide
theorem test_constructor_z : encode (frameZ 2 258 z1Res) = [0x24, 0x24, 0x58] ++ z1 := by decide

/-! ### The host's two questions, on the rows of spec/opcode_table.json -/

theorem test_table_word_vframe :
    decodeTableWord 24 0x242456 = some (.vframe 0 (List.replicate 16 0) 0 0 0) := by decide
theorem test_table_word_mframe : decodeTableWord 24 0x242457 = some (.mframe 0 0 0 0 0 0 0 0) := by decide
theorem test_table_word_zframe :
    decodeTableWord 24 0x242458 = some (.zframe 0 0 0 (List.replicate 16 0) 0) := by decide
theorem test_table_word_unknown : decodeTableWord 24 0x242400 = some (.unknown 0x00) := by decide

/-- Frames of zeros behind the prefix fail the length check; UNKNOWN raises code 2. -/
theorem test_step_runs_the_placed_word :
    (stateOf (step (State.reset.withFetchWord 24 0x242456))).bind State.out = some (.error 1 0x56 0x00 0x2D) ∧
    (stateOf (step (State.reset.withFetchWord 24 0x242457))).bind State.out = some (.error 1 0x57 0x00 0x0F) ∧
    (stateOf (step (State.reset.withFetchWord 24 0x242458))).bind State.out = some (.error 1 0x58 0x00 0x28) ∧
    (stateOf (step (State.reset.withFetchWord 24 0x242400))).bind State.out = some (.error 2 0x00 0x00 0x00) := by decide

/-! ### Small steps, with the spec's results -/

/-- V1 at K = 8 (R162): the last of equal extremes wins. -/
theorem test_vframe_spread :
    ((stateOf (step (inPayload .v 8 true v1.dropLast [.rx 0x52]))).bind (·.toRegisters.vRec)) =
      some { cells := v1Cells, wh := 123456, ah := 7890, tot := 98556,
             spread := { minIdx := 4, maxIdx := 5, vMin := 3298, vMax := 3310, diff := 12 } } := by decide

/-- V1 at K = 16: zeros at 10 to 14 and 65535 at 15. -/
theorem test_vframe_spread_all_cells :
    ((stateOf (step (inPayload .v 16 true v1.dropLast [.rx 0x52]))).bind (·.toRegisters.vRec)).map VRecord.spread =
      some { minIdx := 14, maxIdx := 15, vMin := 0, vMax := 65535, diff := 65535 } := by decide

/-- S1. -/
theorem test_mframe_record :
    ((stateOf (step (s1Last true 0x21))).bind (·.toRegisters.mRec)) =
      some { eoc := 3620, mode := 1, cur := 228, t1 := 131, t2 := 132, soc := 85 } := by decide

/-- K3: verification disabled, checksum byte 0x22. -/
theorem test_mframe_bypass :
    ((stateOf (step (s1Last false 0x22))).map fun t => (t.out, t.cntOk, t.cntByp, t.cntCsum)) =
      some (some (.record .m true), 1, 1, 0) := by decide

/-- Z1. -/
theorem test_zframe_record :
    ((stateOf (step (inPayload .z 16 true z1.dropLast [.rx 0xCD]))).bind (·.toRegisters.zRec)) =
      some { mode := 2, cur := 258, res := z1Res } := by decide

/-- L4: Z1 with declared length 0x29. -/
theorem test_zframe_framing_error :
    ((stateOf (step (inPayload .z 16 true (z1.dropLast.set 0 0x29) [.rx 0xCD]))).map fun t => (t.out, t.zRec)) =
      some (some (.error 1 0x58 0x29 0x28), none) := by decide

/-- K1: the checksum byte altered. -/
theorem test_mframe_checksum_mismatch :
    ((stateOf (step (s1Last true 0x22))).map fun t => (t.out, t.cntCsum, t.mRec)) =
      some (some (.error 4 0x57 0x21 0x22), 1, none) := by decide

/-- D5. -/
theorem test_unknown_command :
    ((stateOf (step (inCmd [.rx 0x59]))).map fun t => (t.out, t.cmdr, t.phase)) =
      some (some (.error 2 0x59 0 0), 0x59, .hunt) := by decide

/-- Y6: the marker is an unknown command like any other. -/
theorem test_marker_as_command :
    ((stateOf (step (inCmd [.rx 0x24]))).map fun t => (t.out, t.last)) = some (some (.error 2 0x24 0 0), 0x00) := by decide

/-- Y10's last step: a Trunc between two markers keeps LAST (R93). -/
theorem test_trunc_keeps_last : (stateOf (step (afterMarker [.trunc]))).map (·.toRegisters.last) = some 0x24 := by decide

/-- T3's last step. -/
theorem test_truncated_frame :
    ((stateOf (step (inPayload .m 16 true [0x0F, 0x0E] [.trunc]))).map fun t => (t.out, t.cnt, t.mRec)) =
      some (some (.error 3 0x57 2 12), 0, none) := by decide

/-- X1, X2, X3: the three causes of ConfigurationError. -/
theorem test_configuration_errors :
    (stateOf (step (home 16 true [.reset 16 17 true]))).bind State.out = some (.error 5 0 16 17) ∧
    (stateOf (step (home 16 true [.reset 16 0 true]))).bind State.out = some (.error 5 0 16 0) ∧
    (stateOf (step (home 16 true [.reset 8 8 true]))).bind State.out = some (.error 5 0 8 8) := by decide

/-- S1's row 5: SUM 0xAE and 0x0E give 0xBC. -/
theorem test_capture_adds :
    ((stateOf (step (inPayload .m 16 true [0x0F] [.rx 0x0E]))).map fun t => (t.sum, t.cnt, t.buf)) =
      some (0xBC, 2, [(0, 0x0F), (1, 0x0E)]) := by decide

/-- BUF keeps its canonical form whatever the order of writes (R203: an overwritten offset holds the newer byte). -/
theorem test_buffer_is_canonical :
    Memory.write (Memory.write (Memory.write [] 5 1) 2 3) 5 7 = [(2, 3), (5, 7)] := by decide

/-! ### Witnesses: states that meet the invariants -/

/-- The invariants ask nothing of the pending input and the checksum enable. -/
theorem inv_of_input {s : State} (h : Inv s) (en : Bool) (p : List Pins) : Inv { s with cfgCsumEn := en, input := p } :=
  ⟨h.config, h.sequencer, h.halt, h.error, h.records, h.buffer⟩

theorem test_inv_home (es : List Event) : Inv (home 16 true es) := by
  have h : Inv (home 16 true []) := Inv.of_home ⟨rfl, rfl, rfl⟩ rfl (by intro h; cases h) ⟨by decide, by decide, by decide⟩
    ⟨(by intro r h; cases h), (by intro r h; cases h)⟩ rfl
  exact inv_of_input h true _

theorem test_inv_inCmd (es : List Event) : Inv (inCmd es) := by
  have h : Inv (inCmd []) := ⟨rfl, ⟨fun _ => rfl, fun _ => rfl, (by intro h; cases h)⟩, (by intro h; cases h),
    ⟨by decide, by decide, by decide⟩, ⟨(by intro r h; cases h), (by intro r h; cases h)⟩, rfl⟩
  exact inv_of_input h true _

theorem test_inv_s1Last (en : Bool) (b : Byte) : Inv (s1Last en b) := by
  have h : Inv (s1Last true 0) := ⟨rfl, ⟨fun _ => rfl, (fun h => absurd rfl h),
      fun _ => ⟨.m, ⟨rfl, rfl, rfl⟩, by decide, by decide, by decide⟩⟩, (by intro h; cases h),
    ⟨by decide, by decide, by decide⟩, ⟨(by intro r h; cases h), (by intro r h; cases h)⟩, by unfold BufferInv; decide⟩
  exact inv_of_input h en _

/-- A state with all three records, a counter and the error registers in use. -/
def withRecords (es : List Event) : State :=
  { home 16 true es with
    vRec := some (vRecordOf 16 v1Cells 123456 7890),
    mRec := some { eoc := 3620, mode := 1, cur := 228, t1 := 131, t2 := 132, soc := 85 },
    zRec := some { mode := 2, cur := 258, res := z1Res }, errCode := 4, errCmd := 0x57, errA := 0x21, errB := 0x22,
    cntOk := 3, cntCsum := 1 }

theorem test_inv_withRecords (es : List Event) : Inv (withRecords es) := by
  have h : Inv (withRecords []) := Inv.of_home ⟨rfl, rfl, rfl⟩ rfl (by intro h; cases h) ⟨by decide, by decide, by decide⟩
    ⟨(by intro r h; cases h; exact ⟨rfl, by decide, rfl⟩), (by intro r h; cases h; rfl)⟩ rfl
  exact inv_of_input h true _

theorem test_inv_halted (es : List Event) : Inv (halted es) := by
  have h : Inv (halted []) := Inv.of_home ⟨rfl, rfl, rfl⟩ rfl (fun _ => ⟨rfl, rfl, rfl, rfl, rfl, rfl, rfl, rfl, rfl, rfl⟩)
    ⟨by decide, by decide, by decide⟩ ⟨(by intro r h; cases h), (by intro r h; cases h)⟩ rfl
  exact inv_of_input h true _

theorem test_noReset_rx (s : State) (b : Byte) (rest : List Pins) (h : s.input = (Event.rx b).pins :: rest) : s.noReset := by
  intro n k en ha
  rw [State.awaits, State.nextPins, h] at ha
  cases ha

theorem test_noReset_trunc (s : State) (rest : List Pins) (h : s.input = Event.trunc.pins :: rest) : s.noReset := by
  intro n k en ha
  rw [State.awaits, State.nextPins, h] at ha
  cases ha

/-! ### Witnesses: the hypotheses of each statement -/

theorem test_meets_LegalResetEntersHome :
    (home 16 true [.reset 16 1 false]).awaits (.reset 16 1 false) ∧ (home 16 true [.reset 16 16 true]).awaits (.reset 16 16 true) ∧
    (16 : Byte) ∈ Config.params.supportedN ∧ 1 ≤ (1 : Byte).toNat ∧ (1 : Byte).toNat ≤ (16 : Byte).toNat ∧
    (16 : Byte).toNat ≤ (16 : Byte).toNat := ⟨rfl, rfl, by decide, by decide, by decide, by decide⟩

/-- The legal clause at k = 1 and 16 stands above; the illegal clause at k = 0, k = 17 and n = 8. -/
theorem test_meets_ResetGivesTheResetTable :
    (halted [.reset 16 0 true]).awaits (.reset 16 0 true) ∧ (inCmd [.reset 16 17 true]).awaits (.reset 16 17 true) ∧
    (s1Last true 0).phase = .payload ∧
    ¬ ((16 : Byte) ∈ Config.params.supportedN ∧ 1 ≤ (0 : Byte).toNat ∧ (0 : Byte).toNat ≤ (16 : Byte).toNat) ∧
    ¬ ((16 : Byte) ∈ Config.params.supportedN ∧ 1 ≤ (17 : Byte).toNat ∧ (17 : Byte).toNat ≤ (16 : Byte).toNat) ∧
    ¬ ((8 : Byte) ∈ Config.params.supportedN ∧ 1 ≤ (8 : Byte).toNat ∧ (8 : Byte).toNat ≤ (8 : Byte).toNat) :=
  ⟨rfl, rfl, rfl, by decide, by decide, by decide⟩

theorem test_meets_HaltIsInert :
    (halted [.rx 0x24]).run = false ∧ (halted [.rx 0x24]).awaits (.rx 0x24) ∧ (halted [.rx 0x24]).noReset ∧
    (halted [.trunc]).awaits .trunc ∧ (halted [.trunc]).noReset :=
  ⟨rfl, rfl, test_noReset_rx _ _ [] rfl, rfl, test_noReset_trunc _ [] rfl⟩

theorem test_meets_HaltedBlockTakesNoFrame : (halted []).run = false := rfl

/-- The statements about every step without Reset: ConfigurationFixedBetweenResets, BufferChangesOnlyAtCnt, RecordsChangeOnlyByDelivery, CountersFollowTheOutputEvents, ErrorRegistersShowTheLastError, at a delivery, an error, a capture and a noise byte. -/
theorem test_meets_steps_without_reset :
    ((s1Last true 0x21).noReset ∧ ∃ t, step (s1Last true 0x21) = .next t ∧ t.out = some (.record .m false)) ∧
    ((s1Last true 0x22).noReset ∧ ∃ t, step (s1Last true 0x22) = .next t ∧ t.out = some (.error 4 0x57 0x21 0x22)) ∧
    ((inPayload .m 16 true [0x0F] [.rx 0x0E]).noReset ∧
      ∃ t, step (inPayload .m 16 true [0x0F] [.rx 0x0E]) = .next t ∧ t.buf.read 1 = some 0x0E ∧ t.out = none) ∧
    ((withRecords [.rx 0x41]).noReset ∧ ∃ t, step (withRecords [.rx 0x41]) = .next t ∧ t.out = none ∧ t.vRec.isSome) :=
  ⟨⟨test_noReset_rx _ _ [] rfl, _, rfl, by decide⟩, ⟨test_noReset_rx _ _ [] rfl, _, rfl, by decide⟩,
   ⟨test_noReset_rx _ _ [] rfl, _, rfl, by decide, by decide⟩, ⟨test_noReset_rx _ _ [] rfl, _, rfl, by decide, by decide⟩⟩

/-- One edge per clause. -/
theorem test_meets_PinsAreSampledByPriority :
    ∃ p0 p1 p2 p3 p4 : Pins,
      (p0.rst = true ∧ p0.rxValid = true ∧ p0.rxTrunc = true) ∧
      (p1.rst = false ∧ p1.rxValid = true ∧ p1.rxTrunc = false) ∧ (p2.rst = false ∧ p2.rxValid = false ∧ p2.rxTrunc = true) ∧
      (p3.rst = false ∧ p3.rxValid = false ∧ p3.rxTrunc = false) ∧ (p4.rst = false ∧ p4.rxValid = true ∧ p4.rxTrunc = true) ∧
      (∀ p ∈ [p0, p1, p2, p3, p4], ({ State.reset with input := [p] } : State).input = p :: []) :=
  ⟨{ Pins.idle with rst := true, rxValid := true, rxTrunc := true }, { Pins.idle with rxValid := true },
   { Pins.idle with rxTrunc := true }, Pins.idle, { Pins.idle with rxValid := true, rxTrunc := true },
   by decide, by decide, by decide, by decide, by decide, fun _ _ => rfl⟩

theorem test_meets_NoInputNoChange : State.reset.input = [] := rfl

/-- A step with an output event and one without. -/
theorem test_meets_AtMostOneOutputEventPerStep :
    (∃ t, step (inCmd [.rx 0x59]) = .next t ∧ t.out = some (.error 2 0x59 0 0)) ∧
    (∃ t, step (home 16 true [.rx 0x59]) = .next t ∧ t.out = none) := ⟨⟨_, rfl, by decide⟩, ⟨_, rfl, by decide⟩⟩

/-- A marker behind a non-marker, and a non-marker behind a marker. -/
theorem test_meets_NoiseByteIsAbsorbed :
    ((home 16 true [.rx 0x24]).awaits (.rx 0x24) ∧ (home 16 true [.rx 0x24]).run = true ∧
      (home 16 true [.rx 0x24]).phase = .hunt ∧ ¬ ((home 16 true [.rx 0x24]).last = 0x24 ∧ (0x24 : Byte) = 0x24)) ∧
    ((afterMarker [.rx 0x41]).awaits (.rx 0x41) ∧ ¬ ((afterMarker [.rx 0x41]).last = 0x24 ∧ (0x41 : Byte) = 0x24)) :=
  ⟨⟨rfl, rfl, rfl, by decide⟩, rfl, by decide⟩

theorem test_meets_MarkerPairIsDetected :
    (afterMarker [.rx 0x24]).awaits (.rx 0x24) ∧ (afterMarker [.rx 0x24]).run = true ∧
    (afterMarker [.rx 0x24]).phase = .hunt ∧ (afterMarker [.rx 0x24]).last = 0x24 := ⟨rfl, rfl, rfl, rfl⟩

theorem test_meets_TruncInHuntHasNoEffect :
    (afterMarker [.trunc]).awaits .trunc ∧ (afterMarker [.trunc]).run = true ∧ (afterMarker [.trunc]).phase = .hunt :=
  ⟨rfl, rfl, rfl⟩

/-- Y2: isolated markers. -/
theorem test_meets_NoiseStreamChangesOnlyLast :
    let bs : List Byte := [0x24, 0x41, 0x24, 0x42, 0x24, 0x43]
    let s := { home 16 true [] with input := rxEdges bs ++ [Pins.idle] }
    s.run = true ∧ s.phase = .hunt ∧ bs ≠ [] ∧ noMarkerPair s.last bs = true ∧ s.input = rxEdges bs ++ [Pins.idle] :=
  ⟨rfl, rfl, by decide, by decide, rfl⟩

theorem test_meets_KnownCommandIsLatched :
    (inCmd []).run = true ∧ (inCmd []).phase = .cmd ∧ (inCmd [.rx 0x56]).awaits (.rx 0x56) ∧
    (inCmd [.rx 0x57]).awaits (.rx 0x57) ∧ (inCmd [.rx 0x58]).awaits (.rx 0x58) := ⟨rfl, rfl, rfl, rfl, rfl⟩

/-- The neighbours of the known range. -/
theorem test_meets_UnknownCommandIsRaised :
    (inCmd [.rx 0x55]).awaits (.rx 0x55) ∧ (inCmd [.rx 0x59]).awaits (.rx 0x59) ∧ (inCmd [.rx 0x59]).run = true ∧
    (inCmd [.rx 0x59]).phase = .cmd ∧ (0x55 : Byte) ≠ 0x56 ∧ (0x59 : Byte) ≠ 0x56 ∧ (0x59 : Byte) ≠ 0x57 ∧ (0x59 : Byte) ≠ 0x58 :=
  ⟨rfl, rfl, rfl, rfl, by decide, by decide, by decide, by decide⟩

theorem test_meets_TruncInCmdIsTruncatedFrame :
    (inCmd [.trunc]).awaits .trunc ∧ (inCmd [.trunc]).run = true ∧ (inCmd [.trunc]).phase = .cmd := ⟨rfl, rfl, rfl⟩

/-- T2: no byte captured yet; no event; T5: all but the checksum. -/
theorem test_meets_TruncInPayloadIsTruncatedFrame :
    ((inPayload .z 16 true [] [.trunc]).awaits .trunc ∧ (inPayload .z 16 true [] [.trunc]).run = true ∧
      (inPayload .z 16 true [] [.trunc]).phase = .payload ∧ (inPayload .z 16 true [] [.trunc]).len = some 37 ∧
      (inPayload .z 16 true [] [.trunc]).cnt = 0) ∧ (inPayload .z 16 true [] []).nextPins.sample = .idle ∧
    ((inPayload .z 16 true z1.dropLast [.trunc]).awaits .trunc ∧ (inPayload .z 16 true z1.dropLast [.trunc]).cnt = 36) :=
  ⟨⟨rfl, rfl, rfl, rfl, rfl⟩, rfl, rfl, rfl⟩

/-- A first byte, and the last byte of the longest frame (CNT = 41); for SumTakesEveryByteButTheLast too, one byte that is added and one that is not. -/
theorem test_meets_ByteIsCaptured :
    ((inPayload .m 16 true [] [.rx 0x0F]).awaits (.rx 0x0F) ∧ (inPayload .m 16 true [] [.rx 0x0F]).run = true ∧
      (inPayload .m 16 true [] [.rx 0x0F]).phase = .payload ∧ (inPayload .m 16 true [] [.rx 0x0F]).len = some 12 ∧
      (inPayload .m 16 true [] [.rx 0x0F]).cnt.toNat < 42) ∧
    ((inPayload .v 16 true v1.dropLast [.rx 0x52]).awaits (.rx 0x52) ∧
      (inPayload .v 16 true v1.dropLast [.rx 0x52]).cnt.toNat = 41 ∧
      (inPayload .v 16 true v1.dropLast [.rx 0x52]).len = some ((inPayload .v 16 true v1.dropLast [.rx 0x52]).cnt + 1)) :=
  ⟨⟨rfl, rfl, rfl, rfl, by decide⟩, rfl, by decide, by decide⟩

/-- Both clauses. -/
theorem test_meets_StepRunsTheDecodedFrame :
    (Inv (s1Last true 0x21) ∧ (s1Last true 0x21).run = true ∧ (s1Last true 0x21).awaits (.rx 0x21) ∧
      (s1Last true 0x21).phase = .payload ∧ (s1Last true 0x21).len = some ((s1Last true 0x21).cnt + 1) ∧
      decode (s1Last true 0x21).cfgN.toNat
          (0x24 :: 0x24 :: (s1Last true 0x21).cmdr :: (captured (s1Last true 0x21) (s1Last true 0x21).cnt.toNat ++ [0x21])) =
        .frame (.mframe 0x0F 3620 1 228 131 132 85 0x21) []) ∧
    (Inv (inCmd [.rx 0x59]) ∧ (inCmd [.rx 0x59]).run = true ∧ (inCmd [.rx 0x59]).awaits (.rx 0x59) ∧
      (inCmd [.rx 0x59]).phase = .cmd ∧ decode (inCmd [.rx 0x59]).cfgN.toNat [0x24, 0x24, 0x59] = .frame (.unknown 0x59) []) :=
  ⟨⟨test_inv_s1Last _ _, rfl, rfl, rfl, by decide, by decide⟩, test_inv_inCmd _, rfl, rfl, rfl, by decide⟩

theorem test_meets_UnknownFrameRaisesUnknownCommand : (inCmd []).run = true := rfl

/-- The premises of the three delivery statements: right checksum, and wrong checksum with verification disabled. -/
theorem test_meets_delivery :
    (let s := inPayload .v 16 true v1.dropLast []; s.run = true ∧ s.len = some 42 ∧ (0x2D : Byte) = (42 : Count).setWidth 8 + 3 ∧ s.sum = 0x52) ∧
    (let s := inPayload .m 16 false s1.dropLast []; s.run = true ∧ s.len = some 12 ∧ (0x0F : Byte) = (12 : Count).setWidth 8 + 3 ∧ s.cfgCsumEn = false ∧ s.sum ≠ 0x22) ∧
    (let s := inPayload .z 16 true z1.dropLast []; s.run = true ∧ s.len = some 37 ∧ (0x28 : Byte) = (37 : Count).setWidth 8 + 3 ∧ s.sum = 0xCD) := by
  decide

theorem test_meets_WrongLengthIsFramingError :
    (inPayload .m 16 true (s1.set 0 0x10).dropLast []).run = true ∧ (inPayload .m 16 true (s1.set 0 0x10).dropLast []).len = some 12 ∧
    (∃ eoc mode cur t1 t2 soc cs, Instr.mframe 0x10 3620 1 228 131 132 85 0x22 = .mframe 0x10 eoc mode cur t1 t2 soc cs) ∧
    (0x10 : Byte) ≠ (12 : Count).setWidth 8 + 3 := ⟨rfl, rfl, ⟨_, _, _, _, _, _, _, rfl⟩, by decide⟩

/-- A wrong and a right checksum byte. -/
theorem test_meets_ChecksumIsVerified :
    (s1Last true 0x22).run = true ∧ (s1Last true 0x22).len = some 12 ∧ (s1Last true 0x22).cfgCsumEn = true ∧
    (∃ eoc mode cur t1 t2 soc, Instr.mframe 0x0F 3620 1 228 131 132 85 0x22 = .mframe 0x0F eoc mode cur t1 t2 soc 0x22) ∧
    (0x0F : Byte) = (12 : Count).setWidth 8 + 3 ∧ (s1Last true 0x22).sum ≠ 0x22 ∧ (s1Last true 0x21).sum = 0x21 :=
  ⟨rfl, rfl, rfl, ⟨_, _, _, _, _, _, rfl⟩, by decide, by decide, by decide⟩

theorem test_meets_VoltageFieldsAreTheBufferBytes :
    let s := inPayload .v 16 true v1.dropLast [.rx 0x52]
    s.awaits (.rx 0x52) ∧ s.run = true ∧ s.phase = .payload ∧ s.cfgN = 16 ∧ s.kind = some .v ∧ s.len = some 42 ∧ s.cnt = 41 ∧
    s.buf.read 0 = some 0x2D ∧ s.sum = 0x52 := ⟨rfl, rfl, rfl, rfl, rfl, rfl, rfl, by decide, by decide⟩

theorem test_meets_MeasurementFieldsAreTheBufferBytes :
    let s := s1Last true 0x21
    s.awaits (.rx 0x21) ∧ s.run = true ∧ s.phase = .payload ∧ s.kind = some .m ∧ s.len = some 12 ∧ s.cnt = 11 ∧
    s.buf.read 0 = some 0x0F ∧ s.sum = 0x21 := ⟨rfl, rfl, rfl, rfl, rfl, rfl, by decide, by decide⟩

theorem test_meets_ImpedanceFieldsAreTheBufferBytes :
    let s := inPayload .z 16 true z1.dropLast [.rx 0xCD]
    s.awaits (.rx 0xCD) ∧ s.run = true ∧ s.phase = .payload ∧ s.cfgN = 16 ∧ s.kind = some .z ∧ s.len = some 37 ∧ s.cnt = 36 ∧
    s.buf.read 0 = some 0x28 ∧ s.sum = 0xCD := ⟨rfl, rfl, rfl, rfl, rfl, rfl, rfl, by decide, by decide⟩

theorem test_meets_PackVoltageIsTheExactSum :
    let s := inPayload .v 4 true v1.dropLast []
    s.run = true ∧ s.cfgN = 16 ∧ v1Cells.length = 16 ∧ s.len = some 42 ∧ (0x2D : Byte) = (42 : Count).setWidth 8 + 3 ∧
    (s.cfgCsumEn = false ∨ s.sum = 0x52) := ⟨rfl, rfl, rfl, rfl, by decide, .inr (by decide)⟩

/-- M and Z frames with the current bytes 0x00 0xFF, verification disabled. -/
theorem test_meets_CurrentsHaveOppositeByteOrders :
    (let s := inPayload .m 16 false [0x0F, 0, 0, 0, 0x00, 0xFF, 0, 0, 0, 0, 0] [.rx 0]
     s.awaits (.rx 0) ∧ s.run = true ∧ s.phase = .payload ∧ s.kind = some .m ∧ s.len = some 12 ∧ s.cnt = 11 ∧
     s.buf.read 0 = some 0x0F ∧ s.cfgCsumEn = false ∧ s.buf.read 4 = some 0x00 ∧ s.buf.read 5 = some 0xFF) ∧
    (let s := inPayload .z 16 false ([0x28, 0, 0x00, 0xFF] ++ List.replicate 32 0) [.rx 0]
     s.awaits (.rx 0) ∧ s.run = true ∧ s.phase = .payload ∧ s.cfgN = 16 ∧ s.kind = some .z ∧ s.len = some 37 ∧ s.cnt = 36 ∧
     s.buf.read 0 = some 0x28 ∧ s.cfgCsumEn = false ∧ s.buf.read 2 = some 0x00 ∧ s.buf.read 3 = some 0xFF) :=
  ⟨⟨rfl, rfl, rfl, rfl, rfl, rfl, by decide, rfl, by decide, by decide⟩,
   rfl, rfl, rfl, rfl, rfl, rfl, rfl, by decide, rfl, by decide, by decide⟩

/-- N cells, for FramesAreLaidOutAsTheFormatsSay; the last cell among them. -/
theorem test_meets_FramesAreLaidOutAsTheFormatsSay :
    v1Cells.length = 16 ∧ v1Cells[15]? = some 65535 ∧ z1Res.length = 16 ∧ z1Res[0]? = some 5 := by decide

/-- For the three spread statements K = 1 and K = 16; and for SpreadIndicesDifferUnlessAllEqual a case of each clause: unequal cells, equal cells (V2). -/
theorem test_meets_spread_statements :
    1 ≤ 1 ∧ 1 ≤ v1Cells.length ∧ 16 ≤ v1Cells.length ∧ 16 ≤ 16 ∧
    (∃ u ∈ v1Cells.take 16, ∃ v ∈ v1Cells.take 16, u ≠ v) ∧
    (∀ u ∈ (List.replicate 16 (3300 : U16)).take 4, ∀ v ∈ (List.replicate 16 (3300 : U16)).take 4, u = v) :=
  ⟨by decide, by decide, by decide, by decide, ⟨3300, by simp [v1Cells], 3305, by simp [v1Cells], by decide⟩, by simp⟩

/-- A capture, a completion, and a step from HALT. -/
theorem test_meets_StepKeepsTheInvariants :
    (Inv (s1Last true 0x21) ∧ ∃ t, step (s1Last true 0x21) = .next t ∧ t.mRec.isSome) ∧
    (Inv (inCmd [.rx 0x57]) ∧ ∃ t, step (inCmd [.rx 0x57]) = .next t ∧ t.phase = .payload) ∧
    (Inv (halted [.rx 0x57]) ∧ ∃ t, step (halted [.rx 0x57]) = .next t ∧ t.run = false) :=
  ⟨⟨test_inv_s1Last _ _, _, rfl, by decide⟩, ⟨test_inv_inCmd _, _, rfl, by decide⟩, ⟨test_inv_halted _, _, rfl, by decide⟩⟩

/-- An allowed edge, and one outside the contract. -/
theorem test_meets_EveryAllowedInputIsTaken :
    (Inv (withRecords [.rx 0x24]) ∧ (withRecords [.rx 0x24]).nextPins.sample ≠ .outsideContract) ∧
    ({ home 16 true [] with input := [{ Pins.idle with rxValid := true, rxTrunc := true }] } : State).nextPins.sample = .outsideContract :=
  ⟨⟨test_inv_withRecords _, by decide⟩, by decide⟩

theorem test_meets_FrameEndsWithItsLastByte :
    let s := s1Last true 0x21
    Inv s ∧ s.run = true ∧ s.phase = .payload ∧ s.latched .m ∧ [(0x21 : Byte)].length = Kind.len s.cfgN.toNat .m - s.cnt.toNat ∧
    s.input = rxEdges [0x21] ++ [] := ⟨test_inv_s1Last _ _, rfl, rfl, ⟨rfl, rfl, rfl⟩, by decide, rfl⟩

/-- Stale bytes behind the captured ones, and stale registers in HUNT. -/
theorem test_meets_StaleContentIsInvisible :
    (Inv (home 16 true [.rx 0x24]) ∧ Inv { home 16 true [.rx 0x24] with cmdr := 0x58, kind := some .z, len := some 37, sum := 0xCD, buf := [(0, 0x28)] } ∧
      AgreeLive (home 16 true [.rx 0x24]) { home 16 true [.rx 0x24] with cmdr := 0x58, kind := some .z, len := some 37, sum := 0xCD, buf := [(0, 0x28)] } ∧
      ∃ t, step (home 16 true [.rx 0x24]) = .next t) ∧
    AgreeLive (s1Last true 0x21) ((s1Last true 0x21).setBuf ((s1Last true 0x21).buf.write 41 0x99)) :=
  ⟨⟨test_inv_home _, Inv.of_home ⟨rfl, rfl, rfl⟩ rfl (by intro h; cases h) ⟨by decide, by decide, by decide⟩
      ⟨(by intro r h; cases h), (by intro r h; cases h)⟩ (by unfold BufferInv; decide),
    ⟨⟨_, _, _, _, _, rfl⟩, by intro h; cases h⟩, _, rfl⟩,
   ⟨⟨_, _, _, _, _, rfl⟩, fun _ => ⟨rfl, rfl, rfl, rfl, by decide⟩⟩⟩

theorem test_meets_DecodeReadsBackEveryFrame :
    (Instr.vframe 0xFF v1Cells 0xFFFFFFFF 0 0xFF).wf 16 = true ∧ (Instr.mframe 0 0 0 0 0 0 0xFF 0xFF).wf 16 = true ∧
    (Instr.zframe 0 0xFF 0xFFFF z1Res 0).wf 16 = true ∧ (Instr.unknown 0x24).wf 16 = true ∧
    (Instr.vframe 0 [] 0 0 0).wf 0 = true := by decide

theorem test_meets_EncodeReproducesTheBytes :
    decode 16 ([0x24, 0x24, 0x57] ++ s1 ++ [0x24]) = .frame (.mframe 0x0F 3620 1 228 131 132 85 0x21) [0x24] := by decide

/-- For BytesOfAFrameRunItsMeaning, a frame with a wrong length byte and a wrong checksum, and UNKNOWN. -/
theorem test_meets_BytesOfAFrameRunItsMeaning :
    let i := Instr.mframe 0x10 3620 1 228 131 132 85 0x00
    let s := { home 16 true [] with input := rxEdges (encode i) ++ [Pins.idle] }
    Inv (home 16 true []) ∧ s.run = true ∧ s.phase = .hunt ∧ s.last ≠ 0x24 ∧ i.wf s.cfgN.toNat = true ∧
    s.input = rxEdges (encode i) ++ [Pins.idle] ∧ (Instr.unknown 0x59).wf s.cfgN.toNat = true :=
  ⟨test_inv_home _, rfl, rfl, by decide, rfl, rfl, by decide⟩

theorem test_meets_WellBuiltFramesAreDelivered :
    (let s := { home 16 true [] with input := rxEdges (encode (frameV v1Cells 123456 7890)) ++ [Pins.idle] }
     Inv s ∧ s.run = true ∧ s.phase = .hunt ∧ s.last ≠ 0x24 ∧ v1Cells.length = s.cfgN.toNat ∧
     s.input = rxEdges (encode (frameV v1Cells 123456 7890)) ++ [Pins.idle]) ∧
    (let s := { home 16 true [] with input := rxEdges (encode (frameM 3620 1 228 131 132 85)) ++ [] }
     Inv s ∧ s.input = rxEdges (encode (frameM 3620 1 228 131 132 85)) ++ []) ∧
    (let s := { home 16 true [] with input := rxEdges (encode (frameZ 2 258 z1Res)) ++ [] }
     Inv s ∧ z1Res.length = s.cfgN.toNat ∧ s.input = rxEdges (encode (frameZ 2 258 z1Res)) ++ []) :=
  ⟨⟨inv_of_input (test_inv_home []) true _, rfl, rfl, by decide, rfl, rfl⟩, ⟨inv_of_input (test_inv_home []) true _, rfl⟩,
   inv_of_input (test_inv_home []) true _, rfl, rfl⟩

/-- K2's field byte (wire index 8), K1's checksum byte (wire index 14), L1's length byte (wire index 3). -/
theorem test_meets_changed_byte_statements :
    let i := frameM 3620 1 228 131 132 85
    let s := { home 16 true [] with input := rxEdges ((encode i).set 8 0xE5) ++ [] }
    BuiltFrame 16 i ∧ 4 ≤ 8 ∧ 14 < (encode i).length ∧ (encode i)[8]? ≠ some 0xE5 ∧ (encode i)[14]? ≠ some 0x22 ∧
    (encode i)[3]? ≠ some 0x10 ∧ Inv s ∧ s.cfgCsumEn = true ∧ s.cfgN.toNat = 16 ∧ s.input = rxEdges ((encode i).set 8 0xE5) ++ [] :=
  ⟨.inr (.inl ⟨_, _, _, _, _, _, rfl⟩), by decide, by decide, by decide, by decide, by decide,
   inv_of_input (test_inv_home []) true _, rfl, rfl, rfl⟩

/-! ### Parameters other than the defaults (R7, D30) -/

/-- SUPPORTED_N = {4, 8} and CW = 2: the formulas of R7 at N = 8. -/
def smallParams : Params := { supportedN := [4, 8], counterWidth := 2 }

theorem test_sizes_at_n_8 :
    smallParams.bufSize = 26 ∧ smallParams.countWidth = 5 ∧ smallParams.indexWidth = 3 ∧ smallParams.totalWidth = 19 := by decide

theorem test_index_width_is_at_least_1 : indexWidthFor 1 = 1 ∧ indexWidthFor 2 = 1 ∧ indexWidthFor 3 = 2 := by decide

/-- A block of four cells, the frame's bytes but the last received: declared length 2 * 4 + 13 = 21; CNT_OK wraps at 2^2. -/
def smallBlock : State smallParams where
  toRegisters := { (Registers.reset 4 4 true : Registers smallParams) with
    phase := .payload, cmdr := 0x56, kind := some .v, len := some 18, cnt := 17, sum := 0xAB, cntOk := 3,
    buf := Memory.writeAll [] 0 [0x15, 0xFF, 0xFF, 0xFF, 0xFF, 0xFF, 0xFF, 0xFF, 0xFF, 0, 0, 0, 0, 0, 0, 0, 0] }
  input := [(Event.rx 0xAB).pins]
  out := none
  sent := []

/-- The next state of an outcome, for any parameters. -/
def nextOf {P : Params} : Outcome P → Option (State P)
  | .next t => some t
  | .fault _ => none
  | .refused _ => none

/-- The sum of four cells of 65535 does not wrap, the counter does (R130, R29). -/
theorem test_small_block_delivers :
    (nextOf (clockEdge smallBlock)).map (fun t => (t.out, t.vRec.map fun r => (r.cells.length, r.tot.toNat), t.cntOk.toNat)) =
      some (some (.record .v false), some (4, 262140), 0) := by decide

/-- N = 16 is not in SUPPORTED_N = {4, 8}. -/
theorem test_small_block_refuses_n_16 :
    ((nextOf (onEvent (.reset 16 16 true) smallBlock)).map fun t => (t.run, t.out)) =
      some (false, some (.error 5 0 16 16)) := by decide

theorem test_meets_SizesFitEverySupportedN :
    (8 : Byte) ∈ smallParams.supportedN ∧ 1 ≤ (8 : Byte).toNat ∧ (16 : Byte) ∈ Config.params.supportedN ∧ 7 < (8 : Byte).toNat := by
  decide

theorem test_meets_AnyBlockSumsAndCounts :
    smallBlock.run = true ∧ smallBlock.cfgN ∈ smallParams.supportedN ∧ (List.replicate 4 (65535 : U16)).length = smallBlock.cfgN.toNat ∧
    smallBlock.len = some 18 ∧ (0x15 : Byte).toNat = (18 : Count smallParams).toNat + 3 ∧ smallBlock.sum = 0xAB := by decide

/-! ### Ports, the sum and the state type -/

/-- A state for each premise of OutputPortsShowTheState. -/
theorem test_meets_OutputPortsShowTheState :
    ({ withRecords [] with out := some (.record .v true) } : State).out = some (.record .v true) ∧
    ({ withRecords [] with out := some (.record .m false) } : State).out = some (.record .m false) ∧
    ({ withRecords [] with out := some (.record .z true) } : State).out = some (.record .z true) := ⟨rfl, rfl, rfl⟩

/-- R16's code of Z, and a configuration port (R28, R31). -/
theorem test_ports_of_a_record :
    ({ withRecords [] with out := some (.record .z true) } : State).ports.recKind = some 2 ∧
    (home 8 false []).ports.cfgK = 8 ∧ (home 8 false []).ports.cfgCsumEn = false := by decide

/-- S1 before its last byte: SUM = 0x21, which is its checksum. -/
theorem test_meets_SumIsThePlainSumModulo256 :
    Inv (s1Last true 0x21) ∧ (s1Last true 0x21).run = true ∧ (s1Last true 0x21).phase = .payload ∧ (s1Last true 0x21).sum = 0x21 :=
  ⟨test_inv_s1Last _ _, rfl, rfl, by decide⟩

/-- Equal registers, the same event, other input behind it and other events before it; and a state that stops. -/
theorem test_meets_OnlyTheRegistersAreState :
    (let s := s1Last true 0x21
     let t : State := { s1Last true 0x21 with input := [(Event.rx 0x21).pins, Event.trunc.pins], sent := [.record .v false] }
     s.toRegisters = t.toRegisters ∧ s.awaits (.rx 0x21) ∧ t.awaits (.rx 0x21) ∧ ∃ u, step s = .next u ∧ u.out = some (.record .m false)) ∧
    (let s : State := { inPayload .v 16 true [] [.rx 0x00] with cnt := 42 }
     s.awaits (.rx 0x00) ∧ step s = .fault .bufferRange) :=
  ⟨⟨rfl, rfl, rfl, _, rfl, by decide⟩, rfl, rfl⟩

end Sys2Proof.Tests
end

