-- ==== Sys2Proof/Proofs/DispatchReader.lean ====
section
/-! The dispatcher and the frame reader (spec/41_dispatch_reader.md): what one step does in phase CMD, on Trunc, and without an event. -/

namespace Sys2Proof.Machine

/-! ### One step -/

/-- R36: an edge without event only ends the strobes of the step before. -/
theorem step_idle {s : State} (h : s.nextPins.sample = .idle) : step s = .next s.consume := by
  simp [step, clockEdge, onPins, h]

/-- R100, R101: a known command byte in phase CMD. -/
theorem step_known {s : State} {b : Byte} {k : Kind} (hb : s.awaits (.rx b)) (hr : s.run = true)
    (hp : s.phase = .cmd) (hk : kindOfCmd b = some k) : step s = .next (latchKnown k b s.consume) := by
  rw [step_event hb, onEvent_rx_known (u := s.consume) hr hp hk]

/-- R102: any other byte in phase CMD is the last of a frame UNKNOWN. -/
theorem step_unknown {s : State} {b : Byte} (hb : s.awaits (.rx b)) (hr : s.run = true)
    (hp : s.phase = .cmd) (hk : kindOfCmd b = none) : step s = exec (.unknown b) s.consume := by
  rw [step_event hb, onEvent_rx_unknown (u := s.consume) hr hp hk]

theorem step_trunc {s : State} (ht : s.awaits .trunc) (hr : s.run = true) :
    step s = .next (onTrunc s.consume) := by
  rw [step_event ht, onEvent_trunc (u := s.consume) hr]

/-! ### The operations the step calls -/

theorem kindOfCmd_eq_none_of_ne {b : Byte} (hv : b ≠ 0x56) (hm : b ≠ 0x57) (hz : b ≠ 0x58) :
    kindOfCmd b = none := by
  rw [kindOfCmd, if_neg hv, if_neg hm, if_neg hz]

/-- R100, R102: the frame UNKNOWN of a running block latches the command and enters the error. -/
theorem exec_unknown_running {s : State} (cmd : Byte) (hr : s.run = true) :
    exec (.unknown cmd) s = .next (raiseError .unknownCommand cmd 0x00 0x00 (s.latchCmd cmd)) := by
  rcases execUnknown_cases cmd s with ⟨hhalt, -⟩ | ⟨-, h⟩
  · rw [hr] at hhalt; cases hhalt
  · exact h

/-- R105: CMDR, CNT and LEN are read before error entry clears CNT. -/
theorem onTrunc_payload {s : State} {len : Count} (hp : s.phase = .payload) (hl : s.len = some len) :
    onTrunc s = raiseError .truncated s.cmdr (s.cnt.setWidth 8) (len.setWidth 8) s := by
  simp only [onTrunc, hp, State.curLen, hl, Option.getD_some]

/-! ### The obligations -/

/-- Settles O22: exec of UNKNOWN is the error entry of UnknownCommand on the state with the command latched, written out as one record update. -/
theorem unknownFrameRaisesUnknownCommand : Obligations.UnknownFrameRaisesUnknownCommand := by
  intro s cmd hr
  rw [exec_unknown_running cmd hr, raiseError_unknownCommand]
  rfl

/-- Settles O15: the byte selects no kind, so the step is exec of the frame UNKNOWN, which O22 describes. -/
theorem unknownCommandIsRaised : Obligations.UnknownCommandIsRaised := by
  intro s b hb hr hp hv hm hz
  rw [step_unknown hb hr hp (kindOfCmd_eq_none_of_ne hv hm hz)]
  exact unknownFrameRaisesUnknownCommand s.consume b hr

/-- Settles O14: each of the three bytes selects its kind, whose length and prefix sum the dispatcher loads. -/
theorem knownCommandIsLatched : Obligations.KnownCommandIsLatched := by
  intro s hr hp
  refine ⟨fun hb => ?v, fun hb => ?m, fun hb => ?z⟩
  case v => exact step_known hb hr hp (kindOfCmd_cmd .v)
  case m => exact step_known hb hr hp (kindOfCmd_cmd .m)
  case z => exact step_known hb hr hp (kindOfCmd_cmd .z)

/-- Settles O17: the truncated-frame error entry on Trunc, and no change without an event. -/
theorem truncInPayloadIsTruncatedFrame : Obligations.TruncInPayloadIsTruncatedFrame := by
  intro s len hr hp hl
  refine ⟨fun ht => ?trunc, step_idle⟩
  case trunc =>
    rw [step_trunc ht hr, onTrunc_payload (s := s.consume) hp hl, raiseError_truncated]
    rfl

end Sys2Proof.Machine
end

/-! The checksum validator (spec/42_checksum.md): what a capture step does to SUM, what SUM is in a frame being captured, and the verdict at completion. -/

namespace Sys2Proof.Machine

/-! ### A decoder writes its record group and nothing else (R107) -/

@[simp] theorem recordWrite_sum (i : Instr) (s : State) : (recordWrite i s).sum = s.sum := by cases i <;> rfl

@[simp] theorem recordWrite_cntCsum (i : Instr) (s : State) : (recordWrite i s).cntCsum = s.cntCsum := by cases i <;> rfl

@[simp] theorem recordWrite_cntByp (i : Instr) (s : State) : (recordWrite i s).cntByp = s.cntByp := by cases i <;> rfl

/-! ### SUM in a capture step (R116) -/

/-- R116 in integers. -/
theorem accumulate_toNat (sum b : Byte) (cnt len : Count) :
    (accumulate sum b cnt len).toNat =
      if cnt.toNat < len.toNat - 1 then (sum.toNat + b.toNat) % 256 else sum.toNat := by
  unfold accumulate
  by_cases h : cnt.toNat + 1 < len.toNat
  · rw [if_pos h, if_pos (by omega), BitVec.toNat_add]
  · rw [if_neg h, if_neg (by omega)]

/-- No frame writes SUM, whatever its outcome. -/
theorem exec_sum {i : Instr} {s t : State} (h : exec i s = .next t) : t.sum = s.sum := by
  rcases exec_next_cases h with ⟨-, rfl⟩ | ⟨e, x, a, b, -, -, rfl⟩ | ⟨k, byp, -, -, rfl⟩
  · rfl
  · simp [raiseError]
  · simp [deliver]

/-- A captured byte is accumulated; if it completes the frame, the frame keeps the sum (R104, R116). -/
theorem onRxPayload_sum (b : Byte) {s : State} (h42 : s.cnt.toNat < 42) :
    ∃ t, onRxPayload b s = .next t ∧ t.sum = accumulate s.sum b s.cnt s.curLen := by
  rcases onRxPayload_cases b s with ⟨hfull, -⟩ | ⟨-, -, h⟩ | ⟨-, -, h⟩
  · rw [Config.params_bufSize] at hfull; omega
  · exact ⟨_, h, rfl⟩
  · obtain ⟨t, ht⟩ := exec_next (capturedFrame ((s.setBuf (s.buf.write s.cnt.toNat b)).countByte b))
      ((s.setBuf (s.buf.write s.cnt.toNat b)).countByte b)
    exact ⟨t, h.trans ht, exec_sum ht⟩

/-! ### SUM as a plain sum (R115, R120) -/

theorem byteSum_toNat (bs : List Byte) : (byteSum bs).toNat = (bs.map BitVec.toNat).sum % 256 := by
  induction bs with
  | nil => rfl
  | cons b bs ih =>
    rw [byteSum, BitVec.toNat_add, ih, List.map_cons, List.sum_cons]
    omega

theorem prefixSum_toNat (cmd : Byte) : (prefixSum cmd).toNat = (0x24 + 0x24 + cmd.toNat) % 256 := by
  rw [prefixSum, BitVec.toNat_add]
  rfl

/-- In a frame being captured SUM is the prefix sum and the sum of the captured bytes (R15). -/
theorem Inv.sum_payload {s : State} (hi : Inv s) (hp : s.phase = .payload) :
    s.sum = prefixSum s.cmdr + byteSum (captured s s.cnt.toNat) := by
  obtain ⟨-, -, hpayload⟩ := hi.sequencer
  obtain ⟨-, -, -, -, hsum⟩ := hpayload hp
  exact hsum

theorem verdict_enabled_pass_iff (sum embedded : Byte) : verdict true sum embedded = .pass false ↔ sum = embedded := by
  by_cases h : sum = embedded <;> simp [verdict, h]

/-! ### The verdict at completion (R118) -/

/-- The declared length a frame must carry, from the LEN register (R106). -/
theorem expectedDeclared_curLen {s : State} {len : Count} (hl : s.len = some len) :
    expectedDeclared s.curLen = len.setWidth 8 + 3 := by
  rw [expectedDeclared_eq, State.curLen, hl, Option.getD_some]

theorem kind?_of_frameCheck {i : Instr} {k : Kind} {d c : Byte} (hf : frameCheck i = some (k, d, c)) :
    i.kind? = some k := by
  cases i <;> cases hf <;> rfl

section
variable {i : Instr} {s : State} {k : Kind} {d c : Byte}

/-- A wrong checksum byte, verification enabled: no decoder runs (R118). -/
theorem exec_mismatch (hf : frameCheck i = some (k, d, c)) (hr : s.run = true) (hd : d = expectedDeclared s.curLen)
    (hen : s.cfgCsumEn = true) (hne : s.sum ≠ c) :
    exec i s = .next (raiseError .checksumMismatch s.cmdr s.sum c s) := by
  rw [exec_frame hf]
  rcases complete_cases k d c (recordWrite i) s with ⟨hhalt, -⟩ | ⟨-, hlen, -⟩ | ⟨-, -, -, -, h⟩ | ⟨-, -, hok, -⟩
  · simp [hr] at hhalt
  · exact absurd hd hlen
  · exact h
  · simp [hen, hne] at hok

/-- A right checksum byte, or verification disabled: the decoder writes its group and the record is delivered (R107, R118, R119). -/
theorem exec_delivers (hf : frameCheck i = some (k, d, c)) (hr : s.run = true) (hd : d = expectedDeclared s.curLen)
    (hok : s.cfgCsumEn = false ∨ s.sum = c) :
    exec i s = .next (deliver k (s.sum != c) (recordWrite i s)) := by
  rw [exec_frame hf]
  rcases complete_cases k d c (recordWrite i) s with ⟨hhalt, -⟩ | ⟨-, hlen, -⟩ | ⟨-, -, hen, hne, -⟩ | ⟨-, -, -, h⟩
  · simp [hr] at hhalt
  · exact absurd hd hlen
  · simp [hen, hne] at hok
  · exact h

end

/-! ### The obligations -/

/-- Settles O19: the byte is accumulated by R116, and a frame it completes keeps the sum. -/
theorem sumTakesEveryByteButTheLast : Obligations.SumTakesEveryByteButTheLast := by
  intro s b len hb hr hp hl h42
  obtain ⟨t, ht, hsum⟩ := onRxPayload_sum b (s := s.consume) h42
  refine ⟨t, ?_, ?_⟩
  · rw [step_event hb, onEvent_rx_payload (u := s.consume) b hr hp, ht]
  · have hcl : s.consume.curLen = len := by rw [State.curLen, State.consume_len, hl, Option.getD_some]
    rw [hsum, hcl]
    exact accumulate_toNat s.sum b s.cnt len

/-- Settles O28: the invariant's sum of bytes, read in integers; carries out of bit 7 are what modulo 256 drops. -/
theorem sumIsThePlainSumModulo256 : Obligations.SumIsThePlainSumModulo256 := by
  refine ⟨fun s hi _ hp => ?sum, fun sum embedded => ?verdict⟩
  case sum =>
    rw [hi.sum_payload hp, BitVec.toNat_add, prefixSum_toNat, byteSum_toNat]
    exact (Nat.add_mod _ _ _).symm
  case verdict =>
    rw [verdict_enabled_pass_iff, BitVec.toNat_eq]

/-- Settles O27: whichever the kind, completion enters the error on a mismatch and delivers on equality. -/
theorem checksumIsVerified : Obligations.ChecksumIsVerified := by
  intro s i declared cs len hr hl hen hshape hdecl
  obtain ⟨k, hf⟩ : ∃ k, frameCheck i = some (k, declared, cs) := by
    rcases hshape with ⟨cells, wh, ah, rfl⟩ | ⟨eoc, mode, cur, t1, t2, soc, rfl⟩ | ⟨mode, cur, res, rfl⟩
    · exact ⟨.v, rfl⟩
    · exact ⟨.m, rfl⟩
    · exact ⟨.z, rfl⟩
  have hd : declared = expectedDeclared s.curLen := hdecl.trans (expectedDeclared_curLen hl).symm
  refine ⟨fun hne => ?mismatch, fun heq => ?pass⟩
  case mismatch =>
    rw [exec_mismatch hf hr hd hen hne, raiseError_checksumMismatch]
  case pass =>
    have hbyp : (s.sum != cs) = false := by simp [heq]
    refine ⟨_, k, exec_delivers hf hr hd (.inr heq), kind?_of_frameCheck hf, ?_⟩
    rw [hbyp, deliver_eq]
    exact ⟨rfl, by simp, by simp⟩

end Sys2Proof.Machine


/-! The spread calculator (spec/46_spread.md): S_DIFF is a subtraction that cannot borrow (R159). -/

namespace Sys2Proof.Machine

section
variable {P : Params} {k : Nat} {cells : List U16}

/-- R156, R159: the cell that holds the minimum is one of the first K, so it is bounded by the maximum. -/
theorem spreadOf_vMin_le_vMax (h1 : 1 ≤ k) (h2 : k ≤ cells.length) :
    (spreadOf k cells P).vMin ≤ (spreadOf k cells P).vMax := by
  have hg := ScanGood.spread h1 h2
  have hmem := List.mem_of_getElem? hg.mi
  obtain ⟨-, hle⟩ := hg.bnd _ hmem
  exact BitVec.le_def.mpr hle

/-- R159 in integers: the 16-bit subtraction does not borrow. -/
theorem spreadOf_diff_toNat (h1 : 1 ≤ k) (h2 : k ≤ cells.length) :
    (spreadOf k cells P).diff.toNat = (spreadOf k cells P).vMax.toNat - (spreadOf k cells P).vMin.toNat :=
  BitVec.toNat_sub_of_le (spreadOf_vMin_le_vMax (P := P) h1 h2)

end

/-- R25: S_DIFF has scale 1. -/
theorem physical_sDiff (raw : Nat) : ResultReg.sDiff.physical raw = some (raw : Rat) := by
  simp [ResultReg.physical, ResultReg.divisor]

/-- Settles O36: the minimum is at most the maximum, so the subtraction is exact; the range is that of a 16-bit register. -/
theorem spreadDifferenceNeverBorrows : Obligations.SpreadDifferenceNeverBorrows := by
  intro k cells h1 h2 _ r
  have hrange : r.diff.toNat ≤ 65535 := Nat.le_of_lt_succ r.diff.isLt
  exact ⟨BitVec.le_def.mp (spreadOf_vMin_le_vMax h1 h2), spreadOf_diff_toNat h1 h2, hrange,
    physical_sDiff _, rfl⟩

end Sys2Proof.Machine


/-! The encoding (spec/30_encoding.md): the decoder on the bytes of a frame, what it can answer, and the wire layout of the frames the constructors of R75 build. -/

namespace Sys2Proof

/-! ### The decoder -/

/-- R72: the marker pair and an unknown command byte are a whole frame. -/
theorem decode_unknown {n : Nat} {cmd : Byte} (rest : List Byte) (hc : kindOfCmd cmd = none) :
    decode n (mark :: mark :: cmd :: rest) = .frame (.unknown cmd) rest := by
  simp [decode, hc]

/-- R74: the marker pair, a known command byte and as many bytes as it implies are the frame these bytes decode to. -/
theorem decode_known {n : Nat} {k : Kind} {f : List Byte} (rest : List Byte) (hf : f.length = k.len n) :
    decode n (mark :: mark :: k.cmd :: (f ++ rest)) = .frame (decodeFields n f k) rest := by
  simp [decode, ← hf]

/-- Everything the decoder can answer with a frame to. -/
theorem decode_frame_cases {n : Nat} {bs rest : List Byte} {i : Instr} (h : decode n bs = .frame i rest) :
    (∃ cmd, kindOfCmd cmd = none ∧ bs = mark :: mark :: cmd :: rest ∧ i = .unknown cmd) ∨
    (∃ (k : Kind) (f : List Byte), f.length = k.len n ∧ bs = mark :: mark :: k.cmd :: (f ++ rest) ∧
      i = decodeFields n f k) := by
  unfold decode at h
  split at h
  case h_2 => cases h
  case h_1 m0 m1 cmd tl =>
    split at h
    case isFalse => cases h
    case isTrue hm =>
      obtain ⟨rfl, rfl⟩ := hm
      cases hk : kindOfCmd cmd with
      | none =>
        simp only [hk, Decoded.frame.injEq] at h
        obtain ⟨rfl, rfl⟩ := h
        exact .inl ⟨cmd, hk, rfl, rfl⟩
      | some k =>
        by_cases hlen : tl.length < k.len n
        · simp [hk, hlen] at h
        · simp only [hk, if_neg hlen, Decoded.frame.injEq] at h
          obtain ⟨rfl, rfl⟩ := h
          refine .inr ⟨k, tl.take (k.len n), ?_, ?_, rfl⟩
          · rw [List.length_take]; omega
          · rw [kindOfCmd_eq_some hk, List.take_append_drop]

/-! ### The encoder -/

/-- R71: a frame without a kind is UNKNOWN. -/
theorem eq_unknown_of_kind?_none {i : Instr} (hk : i.kind? = none) : i = .unknown i.cmd := by
  cases i with
  | unknown cmd => rfl
  | _ => cases hk

/-- R60: the bytes of a V, M or Z frame. -/
theorem encode_of_kind {i : Instr} {k : Kind} (hk : i.kind? = some k) :
    encode i = mark :: mark :: k.cmd :: (i.summed ++ i.tail) := by
  rw [encode, cmd_of_kind hk]

/-- R75: a sealed frame is its bytes and their sum modulo 256. -/
theorem encode_sealed {i : Instr} {k : Kind} (hk : i.kind? = some k) :
    encode i.sealed = (mark :: mark :: k.cmd :: i.summed) ++ [byteSum (mark :: mark :: k.cmd :: i.summed)] := by
  rw [encode, Instr.sealed, withChecksum_cmd, withChecksum_summed, withChecksum_tail hk, wireChecksum, cmd_of_kind hk]
  rfl

/-! ### Reading a byte list by index -/

/-- In a list followed by a function of it, the function's value stands behind the list. -/
theorem getElem?_length_append_singleton (l : List Byte) (g : List Byte → Byte) :
    (l ++ [g l])[l.length]? = some (g ((l ++ [g l]).take l.length)) := by
  rw [List.getElem?_append_right (Nat.le_refl _), Nat.sub_self, List.take_left]
  rfl

/-- 16-bit fields in a row behind `hd`: field number `i` occupies the bytes `2 * i` and `2 * i + 1` from there. -/
theorem getElem?_flatMap_field {g : U16 → List Byte} (hg : ∀ x, (g x).length = 2) {xs : List U16} {i : Nat} {x : U16}
    (hx : xs[i]? = some x) (hd ys : List Byte) :
    (hd ++ (xs.flatMap g ++ ys))[hd.length + 2 * i]? = (g x)[0]? ∧
    (hd ++ (xs.flatMap g ++ ys))[hd.length + 1 + 2 * i]? = (g x)[1]? := by
  have hgx := hg x
  induction xs generalizing i hd with
  | nil => simp at hx
  | cons y xs ih =>
    rw [List.flatMap_cons, List.append_assoc]
    cases i with
    | zero =>
      cases Option.some.inj hx
      simp only [List.getElem?_append]
      constructor <;> simp [hgx]
    | succ i =>
      have hrest := ih hx (hd ++ g y)
      rw [List.append_assoc, List.length_append, hg y] at hrest
      rwa [show hd.length + 2 * (i + 1) = hd.length + 2 + 2 * i by omega,
        show hd.length + 1 + 2 * (i + 1) = hd.length + 2 + 1 + 2 * i by omega]

/-! ### The layout of the frames R75 builds, at N = 16 -/

theorem encode_frameV {cells : List U16} (wh ah : U32) (h : cells.length = 16) :
    encode (frameV cells wh ah) =
      ([0x24, 0x24, 0x56, 0x2D] ++ (cells.flatMap bytesBE16 ++ (bytesLE32 wh ++ bytesLE32 ah))) ++
        [byteSum ([0x24, 0x24, 0x56, 0x2D] ++ (cells.flatMap bytesBE16 ++ (bytesLE32 wh ++ bytesLE32 ah)))] := by
  rw [frameV, h, encode_sealed (k := .v) rfl]
  simp [Instr.summed, Kind.declared, Kind.len, Kind.cmd, mark]

theorem encode_frameM (eoc : U16) (mode : Byte) (cur t1 t2 : U16) (soc : Byte) :
    encode (frameM eoc mode cur t1 t2 soc) =
      [0x24, 0x24, 0x57, 0x0F, hi eoc, lo eoc, mode, hi cur, lo cur, hi t1, lo t1, hi t2, lo t2, soc] ++
        [byteSum [0x24, 0x24, 0x57, 0x0F, hi eoc, lo eoc, mode, hi cur, lo cur, hi t1, lo t1, hi t2, lo t2, soc]] :=
  encode_sealed (k := .m) rfl

theorem encode_frameZ (mode : Byte) (cur : U16) {res : List U16} (h : res.length = 16) :
    encode (frameZ mode cur res) =
      ([0x24, 0x24, 0x58, 0x28, mode, lo cur, hi cur] ++ res.flatMap bytesLE16) ++
        [byteSum ([0x24, 0x24, 0x58, 0x28, mode, lo cur, hi cur] ++ res.flatMap bytesLE16)] := by
  rw [frameZ, h, encode_sealed (k := .z) rfl]
  rfl

/-- R63. -/
theorem frameV_layout {cells : List U16} (wh ah : U32) (h : cells.length = 16) :
    let w := encode (frameV cells wh ah)
    w.length = 45 ∧ w.take 4 = [0x24, 0x24, 0x56, 0x2D] ∧
    (∀ i (c : U16), cells[i]? = some c → w[4 + 2 * i]? = some (hi c) ∧ w[5 + 2 * i]? = some (lo c)) ∧
    (w.drop 36).take 4 = bytesLE32 wh ∧ (w.drop 40).take 4 = bytesLE32 ah ∧
    w[44]? = some (byteSum (w.take 44)) := by
  intro w
  have hw : w = _ := encode_frameV wh ah h
  have hcells : (cells.flatMap bytesBE16).length = 32 := by rw [length_flatMap_bytesBE16, h]
  refine ⟨?length, ?head, fun i c hc => ?cell, ?wh, ?ah, ?checksum⟩
  case length => rw [hw]; simp [-List.length_flatMap, hcells, bytesLE32]
  case head => rw [hw]; rfl
  case cell =>
    rw [hw, List.append_assoc, List.append_assoc]
    exact getElem?_flatMap_field (fun _ => rfl) hc [0x24, 0x24, 0x56, 0x2D] _
  case wh => rw [hw]; simp [hcells, bytesLE32]
  case ah => rw [hw]; simp [List.drop_append, hcells, bytesLE32, List.drop_eq_nil_of_le]
  case checksum =>
    have hlast := getElem?_length_append_singleton
      ([0x24, 0x24, 0x56, 0x2D] ++ (cells.flatMap bytesBE16 ++ (bytesLE32 wh ++ bytesLE32 ah))) byteSum
    rw [← hw] at hlast
    simpa [-List.length_flatMap, hcells, bytesLE32] using hlast

/-- R64. -/
theorem frameM_layout (eoc : U16) (mode : Byte) (cur t1 t2 : U16) (soc : Byte) :
    let w := encode (frameM eoc mode cur t1 t2 soc)
    w.length = 15 ∧
    w.take 14 = [0x24, 0x24, 0x57, 0x0F, hi eoc, lo eoc, mode, hi cur, lo cur, hi t1, lo t1, hi t2, lo t2, soc] ∧
    w[14]? = some (byteSum (w.take 14)) := by
  intro w
  have hw : w = _ := encode_frameM eoc mode cur t1 t2 soc
  rw [hw]
  exact ⟨rfl, rfl, rfl⟩

/-- R65. -/
theorem frameZ_layout (mode : Byte) (cur : U16) {res : List U16} (h : res.length = 16) :
    let w := encode (frameZ mode cur res)
    w.length = 40 ∧ w.take 7 = [0x24, 0x24, 0x58, 0x28, mode, lo cur, hi cur] ∧
    (∀ i (r : U16), res[i]? = some r → w[7 + 2 * i]? = some (lo r) ∧ w[8 + 2 * i]? = some (hi r)) ∧
    w[39]? = some (byteSum (w.take 39)) := by
  intro w
  have hw : w = _ := encode_frameZ mode cur h
  have hres : (res.flatMap bytesLE16).length = 32 := by rw [length_flatMap_bytesLE16, h]
  refine ⟨?length, ?head, fun i r hr => ?cell, ?checksum⟩
  case length => rw [hw]; simp [-List.length_flatMap, hres]
  case head => rw [hw]; rfl
  case cell =>
    rw [hw, List.append_assoc]
    exact getElem?_flatMap_field (fun _ => rfl) hr [0x24, 0x24, 0x58, 0x28, mode, lo cur, hi cur] _
  case checksum =>
    have hlast := getElem?_length_append_singleton
      ([0x24, 0x24, 0x58, 0x28, mode, lo cur, hi cur] ++ res.flatMap bytesLE16) byteSum
    rw [← hw] at hlast
    simpa [-List.length_flatMap, hres] using hlast

/-! ### The obligations -/

/-- Settles O46: the encoder writes the command of the frame's kind and as many bytes as that command implies, and the field map reads them back. -/
theorem decodeReadsBackEveryFrame : Obligations.DecodeReadsBackEveryFrame := by
  intro n i rest hw
  cases hk : i.kind? with
  | none =>
    have hi := eq_unknown_of_kind?_none hk
    rw [hi] at hw ⊢
    exact decode_unknown rest (kindOfCmd_eq_none.mpr hw)
  | some k =>
    rw [encode_of_kind hk, List.cons_append, List.cons_append, List.cons_append,
      decode_known rest (captured_length hk hw), decodeFields_captured hk hw]

/-- Settles O47: the decoder answers a frame only to its own bytes, and the captured bytes of a decoded frame are the bytes it was decoded from. -/
theorem encodeReproducesTheBytes : Obligations.EncodeReproducesTheBytes := by
  intro n bs i rest h
  rcases decode_frame_cases h with ⟨cmd, hc, rfl, rfl⟩ | ⟨k, f, hf, rfl, rfl⟩
  · exact ⟨rfl, kindOfCmd_eq_none.mp hc⟩
  · obtain ⟨hbytes, hk, hw⟩ := captured_decodeFields hf
    refine ⟨?_, hw⟩
    rw [encode_of_kind hk, hbytes]
    rfl

/-- Settles O48: the layout of each kind. -/
theorem framesAreLaidOutAsTheFormatsSay : Obligations.FramesAreLaidOutAsTheFormatsSay :=
  ⟨fun _ wh ah h => frameV_layout wh ah h, frameM_layout, fun mode cur _ h => frameZ_layout mode cur h⟩

/-- Settles O49: the decoder is evaluated on the spec's own bytes. -/
theorem specVectorsDecode : Obligations.SpecVectorsDecode := by
  unfold Obligations.SpecVectorsDecode
  decide

end Sys2Proof


/-! Completion (spec/41_dispatch_reader.md section 3) and the decoders (spec/43 to spec/45): what a frame's meaning is when its length is wrong and when it is delivered, and the record fields as the bytes of BUF. -/

namespace Sys2Proof.Machine

/-! ### The length check (R106) -/

/-- A wrong declared length: neither the checksum nor a decoder is consulted (R106, R175). -/
theorem exec_framing {i : Instr} {s : State} {k : Kind} {d c : Byte} (hf : frameCheck i = some (k, d, c))
    (hr : s.run = true) (hd : d ≠ expectedDeclared s.curLen) :
    exec i s = .next (raiseError .framing s.cmdr d (expectedDeclared s.curLen) s) := by
  rw [exec_frame hf]
  rcases complete_cases k d c (recordWrite i) s with ⟨hhalt, -⟩ | ⟨-, -, h⟩ | ⟨-, hlen, -⟩ | ⟨-, hlen, -⟩
  · simp [hr] at hhalt
  · exact h
  · exact absurd hlen hd
  · exact absurd hlen hd

/-- A latched LEN asks for the declared length of its kind (R62). -/
theorem expectedDeclared_of_kind {n : Nat} {k : Kind} (h : k.len n ≤ 42) :
    expectedDeclared (BitVec.ofNat _ (k.len n) : Count) = Kind.declared n k := by
  rw [expectedDeclared, toNat_count h, Kind.declared]

/-! ### Delivery (R107 steps 3 to 6) -/

/-- Delivery after the checksum verdict, as one record update. -/
theorem deliver_verified (k : Kind) (sum c : Byte) (s : State) : deliver k (sum != c) s = { s with
    cntOk := s.cntOk + 1, cntByp := s.cntByp + (if sum = c then 0 else 1),
    out := some (.record k (sum != c)), sent := s.sent ++ [.record k (sum != c)],
    phase := .hunt, last := 0x00, cnt := 0 } := by
  rw [deliver_eq]
  by_cases h : sum = c <;> simp [h]

/-- R129, R130: the TW-bit total is the exact sum, for any block that supports that many cells. -/
theorem totalOf_toNat {P : Params} {cells : List U16} (h : cells.length ≤ P.maxN) :
    (totalOf cells P).toNat = (cells.map BitVec.toNat).sum := by
  have hsum := sum_toNat_le cells
  have hfits := P.total_lt h
  rw [totalOf, BitVec.toNat_ofNat]
  exact Nat.mod_eq_of_lt (by omega)

/-- Settles O23: the frame passes both checks, so the V decoder writes its group and the record is delivered. -/
theorem voltageFrameIsDelivered : Obligations.VoltageFrameIsDelivered := by
  intro s declared cells wh ah checksum len hr hl hdecl hok
  rw [exec_delivers (k := .v) rfl hr (hdecl.trans (expectedDeclared_curLen hl).symm) hok, deliver_verified]
  rfl

/-- Settles O24: the same with the M decoder. -/
theorem measurementFrameIsDelivered : Obligations.MeasurementFrameIsDelivered := by
  intro s declared eoc mode cur t1 t2 soc checksum len hr hl hdecl hok
  rw [exec_delivers (k := .m) rfl hr (hdecl.trans (expectedDeclared_curLen hl).symm) hok, deliver_verified]
  rfl

/-- Settles O25: the same with the Z decoder. -/
theorem impedanceFrameIsDelivered : Obligations.ImpedanceFrameIsDelivered := by
  intro s declared mode cur res checksum len hr hl hdecl hok
  rw [exec_delivers (k := .z) rfl hr (hdecl.trans (expectedDeclared_curLen hl).symm) hok, deliver_verified]
  rfl

/-- Settles O26: whichever the kind, completion stops at the length check. -/
theorem wrongLengthIsFramingError : Obligations.WrongLengthIsFramingError := by
  intro s i declared len hr hl hshape hne
  obtain ⟨k, cs, hf⟩ : ∃ k cs, frameCheck i = some (k, declared, cs) := by
    rcases hshape with ⟨cells, wh, ah, cs, rfl⟩ | ⟨eoc, mode, cur, t1, t2, soc, cs, rfl⟩ | ⟨mode, cur, res, cs, rfl⟩
    · exact ⟨.v, cs, rfl⟩
    · exact ⟨.m, cs, rfl⟩
    · exact ⟨.z, cs, rfl⟩
  have hlen := expectedDeclared_curLen hl
  rw [exec_framing hf hr (by rwa [hlen]), hlen, raiseError_framing]

/-! ### The step that completes an accepted frame -/

/-- The frame whose last byte is `b`: decoded from the captured bytes and `b`. -/
def completedFrame (k : Kind) (s : State) (b : Byte) : Instr :=
  decodeFields s.cfgN.toNat (captured s s.cnt.toNat ++ [b]) k

/-- R104, R107: the last byte of a frame with the right declared length and an accepted checksum delivers the frame decoded from BUF and that byte. -/
theorem step_delivers {s : State} {b : Byte} {k : Kind} (hb : s.awaits (.rx b)) (hr : s.run = true)
    (hp : s.phase = .payload) (hk : s.kind = some k) (hl : s.len = some (BitVec.ofNat _ (k.len s.cfgN.toNat)))
    (hkl : k.len s.cfgN.toNat ≤ 42) (hc : s.cnt.toNat + 1 = k.len s.cfgN.toNat)
    (hd : s.buf.read 0 = some (Kind.declared s.cfgN.toNat k)) (hok : s.cfgCsumEn = false ∨ s.sum = b) :
    step s = .next (deliver k (s.sum != b) (recordWrite (completedFrame k s b)
      { s.consume with buf := s.buf.write s.cnt.toNat b, cnt := s.cnt + 1 })) := by
  have hpos : 0 < s.cnt.toNat := by cases k <;> simp only [Kind.len] at hc <;> omega
  have hfirst : byteAt (captured s s.cnt.toNat ++ [b]) 0 = Kind.declared s.cfgN.toNat k := by
    rw [byteAt_captured_append s b _ 0 hpos, bufByte, hd, Option.getD_some]
  have hlast : byteAt (captured s s.cnt.toNat ++ [b]) (k.len s.cfgN.toNat - 1) = b := by
    rw [← hc, Nat.add_sub_cancel, byteAt_captured_last]
  have hf : frameCheck (completedFrame k s b) = some (k, Kind.declared s.cfgN.toNat k, b) := by
    rw [completedFrame, frameCheck_decodeFields, hfirst, hlast]
  have hlen : expectedDeclared ({ s.consume with buf := s.buf.write s.cnt.toNat b, cnt := s.cnt + 1 } : State).curLen =
      Kind.declared s.cfgN.toNat k := by
    simp only [State.curLen, State.consume_len, hl, Option.getD_some, expectedDeclared_of_kind hkl]
  rw [step_completes hr hp hb hk hl hkl hc]
  exact exec_delivers hf hr hlen.symm hok

/-! ### Fields from BUF (R67 to R69) -/

section
variable {s : State} {b : Byte} {n o : Nat}

theorem be16_captured_toNat (h : o + 1 < n) : (be16 (captured s n ++ [b]) o).toNat =
    (bufByte s o).toNat * 256 + (bufByte s (o + 1)).toNat := by
  rw [be16_toNat, byteAt_captured_append _ _ _ _ (by omega), byteAt_captured_append _ _ _ _ h]

theorem le16_captured_toNat (h : o + 1 < n) : (le16 (captured s n ++ [b]) o).toNat =
    (bufByte s o).toNat + (bufByte s (o + 1)).toNat * 256 := by
  rw [le16_toNat, byteAt_captured_append _ _ _ _ (by omega), byteAt_captured_append _ _ _ _ h]

theorem le32_captured_toNat (h : o + 3 < n) : (le32 (captured s n ++ [b]) o).toNat =
    (bufByte s o).toNat + (bufByte s (o + 1)).toNat * 2 ^ 8 + (bufByte s (o + 2)).toNat * 2 ^ 16 +
      (bufByte s (o + 3)).toNat * 2 ^ 24 := by
  rw [le32_toNat, byteAt_captured_append _ _ _ _ (by omega), byteAt_captured_append _ _ _ _ (by omega),
    byteAt_captured_append _ _ _ _ (by omega), byteAt_captured_append _ _ _ _ h]

/-- Entry `i` of a row of fields read from the captured bytes. -/
theorem getElem?_map_range_toNat {g : Nat → U16} {m i : Nat} (h : i < m) :
    (((List.range m).map g)[i]?).map BitVec.toNat = some (g i).toNat := by
  rw [List.getElem?_map, List.getElem?_range h, Option.map_some, Option.map_some]

end

/-! ### The three completing steps, with the record each writes -/

/-- A V frame at N = 16 (R41, R125). -/
theorem step_delivers_voltage {s : State} {b : Byte} (hb : s.awaits (.rx b)) (hr : s.run = true) (hp : s.phase = .payload)
    (hn : s.cfgN = 16) (hk : s.kind = some .v) (hl : s.len = some 42) (hc : s.cnt = 41)
    (hd : s.buf.read 0 = some 0x2D) (hok : s.cfgCsumEn = false ∨ s.sum = b) :
    ∃ t, step s = .next t ∧ t.vRec = some (vRecordOf s.cfgK.toNat
      ((List.range 16).map fun i => be16 (captured s 41 ++ [b]) (2 * i + 1))
      (le32 (captured s 41 ++ [b]) 33) (le32 (captured s 41 ++ [b]) 37)) := by
  have hcnt : s.cnt.toNat = 41 := by rw [hc]; rfl
  have hlen : Kind.len s.cfgN.toNat .v = 42 := by rw [hn]; rfl
  refine ⟨_, step_delivers hb hr hp hk (by rw [hlen, hl]; rfl) (by rw [hlen]) (by rw [hcnt, hlen])
    (by rw [hd, hn]; rfl) hok, ?_⟩
  rw [completedFrame, hcnt, hn]
  rfl

/-- An M frame (R42, R135). -/
theorem step_delivers_measurement {s : State} {b : Byte} (hb : s.awaits (.rx b)) (hr : s.run = true) (hp : s.phase = .payload)
    (hk : s.kind = some .m) (hl : s.len = some 12) (hc : s.cnt = 11)
    (hd : s.buf.read 0 = some 0x0F) (hok : s.cfgCsumEn = false ∨ s.sum = b) :
    ∃ t, step s = .next t ∧ t.mRec = some
      { eoc := be16 (captured s 11 ++ [b]) 1, mode := byteAt (captured s 11 ++ [b]) 3,
        cur := be16 (captured s 11 ++ [b]) 4, t1 := be16 (captured s 11 ++ [b]) 6,
        t2 := be16 (captured s 11 ++ [b]) 8, soc := byteAt (captured s 11 ++ [b]) 10 } := by
  have hcnt : s.cnt.toNat = 11 := by rw [hc]; rfl
  refine ⟨_, step_delivers hb hr hp hk hl (by simp [Kind.len]) (by simp [hcnt, Kind.len]) hd hok, ?_⟩
  rw [completedFrame, hcnt]
  rfl

/-- A Z frame at N = 16; the V and M groups stay (R43, R145). -/
theorem step_delivers_impedance {s : State} {b : Byte} (hb : s.awaits (.rx b)) (hr : s.run = true) (hp : s.phase = .payload)
    (hn : s.cfgN = 16) (hk : s.kind = some .z) (hl : s.len = some 37) (hc : s.cnt = 36)
    (hd : s.buf.read 0 = some 0x28) (hok : s.cfgCsumEn = false ∨ s.sum = b) :
    ∃ t, step s = .next t ∧ t.zRec = some
      { mode := byteAt (captured s 36 ++ [b]) 1, cur := le16 (captured s 36 ++ [b]) 2,
        res := (List.range 16).map fun i => le16 (captured s 36 ++ [b]) (2 * i + 4) } ∧
      t.vRec = s.vRec ∧ t.mRec = s.mRec := by
  have hcnt : s.cnt.toNat = 36 := by rw [hc]; rfl
  have hlen : Kind.len s.cfgN.toNat .z = 37 := by rw [hn]; rfl
  refine ⟨_, step_delivers hb hr hp hk (by rw [hlen, hl]; rfl) (by rw [hlen]; decide) (by rw [hcnt, hlen])
    (by rw [hd, hn]; rfl) hok, ?_, rfl, rfl⟩
  rw [completedFrame, hcnt, hn]
  rfl

/-! ### Scales (R25) -/

theorem physical_of_divisor {r : ResultReg} {d : Nat} (hd : r.divisor = some d) (raw : Nat) :
    r.physical raw = some ((raw : Rat) / (d : Rat)) := by
  simp [ResultReg.physical, hd]

/-- Scale 1: the physical value is the raw integer. -/
theorem physical_of_divisor_one {r : ResultReg} (hd : r.divisor = some 1) (raw : Nat) : r.physical raw = some (raw : Rat) := by
  rw [physical_of_divisor hd, Nat.cast_one, div_one]

/-! ### The obligations on fields -/

/-- Settles O30: the V record of the completing step, each field read from BUF by its byte order. -/
theorem voltageFieldsAreTheBufferBytes : Obligations.VoltageFieldsAreTheBufferBytes := by
  intro s b hb hr hp hn hk hl hc hd hok byte
  obtain ⟨t, hstep, hrec⟩ := step_delivers_voltage hb hr hp hn hk hl hc hd hok
  refine ⟨t, _, hstep, hrec, ?length, fun i hi => ?cell, ?wh, ?ah, ?tot, rfl⟩
  case length => simp [vRecordOf]
  case cell =>
    exact (getElem?_map_range_toNat (g := fun i => be16 (captured s 41 ++ [b]) (2 * i + 1)) hi).trans
      (congrArg some (be16_captured_toNat (by omega)))
  case wh => exact le32_captured_toNat (by decide)
  case ah => exact le32_captured_toNat (by decide)
  case tot => exact totalOf_toNat (by simp)

/-- Settles O31: the delivered record's total is exact, since 16 cells of 16 bits fit 20 bits. -/
theorem packVoltageIsTheExactSum : Obligations.PackVoltageIsTheExactSum := by
  intro s declared cells wh ah checksum len hr _ hcells hl hdecl hok
  have htot : (totalOf cells).toNat = (cells.map BitVec.toNat).sum := totalOf_toNat (by simp [hcells])
  have hvolts : ResultReg.vTot.physical (totalOf cells).toNat = some (((cells.map BitVec.toNat).sum : Rat) / 1000) := by
    rw [htot]
    exact physical_of_divisor rfl _
  exact ⟨_, _, voltageFrameIsDelivered s declared cells wh ah checksum len hr hl hdecl hok, rfl, rfl, htot, hvolts⟩

/-- Settles O32: the M record of the completing step, with the scales of R25. -/
theorem measurementFieldsAreTheBufferBytes : Obligations.MeasurementFieldsAreTheBufferBytes := by
  intro s b hb hr hp hk hl hc hd hok byte
  obtain ⟨t, hstep, hrec⟩ := step_delivers_measurement hb hr hp hk hl hc hd hok
  refine ⟨t, _, hstep, hrec, be16_captured_toNat (by decide), ?mode, be16_captured_toNat (by decide),
    be16_captured_toNat (by decide), ?soc, physical_of_divisor rfl _, physical_of_divisor rfl _,
    physical_of_divisor rfl _, physical_of_divisor_one rfl _, rfl⟩
  case mode => exact congrArg BitVec.toNat (byteAt_captured_append s b 11 3 (by decide))
  case soc => exact congrArg BitVec.toNat (byteAt_captured_append s b 11 10 (by decide))

/-- A byte that BUF holds is what a read of it gives. -/
theorem bufByte_of_read {s : State} {o : Nat} {v : Byte} (h : s.buf.read o = some v) : bufByte s o = v := by
  rw [bufByte, h, Option.getD_some]

/-- Settles O33: the two currents of the completing steps; the distinguishing bytes follow from the formulas. -/
theorem currentsHaveOppositeByteOrders : Obligations.CurrentsHaveOppositeByteOrders := by
  refine ⟨fun s b hb hr hp hk hl hc hd hok => ?m, fun s b hb hr hp hn hk hl hc hd hok => ?z⟩
  case m =>
    obtain ⟨t, hstep, hrec⟩ := step_delivers_measurement hb hr hp hk hl hc hd hok
    have hcur := be16_captured_toNat (s := s) (b := b) (n := 11) (o := 4) (by decide)
    refine ⟨t, _, hstep, hrec, hcur, fun h4 h5 => BitVec.eq_of_toNat_eq (hcur.trans ?_)⟩
    rw [bufByte_of_read h4, bufByte_of_read h5]
    rfl
  case z =>
    obtain ⟨t, hstep, hrec, -, -⟩ := step_delivers_impedance hb hr hp hn hk hl hc hd hok
    have hcur := (le16_captured_toNat (s := s) (b := b) (n := 36) (o := 2) (by decide)).trans (Nat.add_comm _ _)
    refine ⟨t, _, hstep, hrec, hcur, fun h2 h3 => BitVec.eq_of_toNat_eq (hcur.trans ?_)⟩
    rw [bufByte_of_read h2, bufByte_of_read h3]
    rfl

/-- Settles O34: the Z record of the completing step, each field low byte first. -/
theorem impedanceFieldsAreTheBufferBytes : Obligations.ImpedanceFieldsAreTheBufferBytes := by
  intro s b hb hr hp hn hk hl hc hd hok byte
  obtain ⟨t, hstep, hrec, hv, hm⟩ := step_delivers_impedance hb hr hp hn hk hl hc hd hok
  refine ⟨t, _, hstep, hrec, by simp, ?mode, le16_captured_toNat (by decide), fun i hi => ?cell, hv, hm⟩
  case mode => exact congrArg BitVec.toNat (byteAt_captured_append s b 36 1 (by decide))
  case cell =>
    exact (getElem?_map_range_toNat (g := fun i => le16 (captured s 36 ++ [b]) (2 * i + 4)) hi).trans
      (congrArg some (le16_captured_toNat (by omega)))

/-! ### Any SUPPORTED_N and CW (D30) -/

/-- Settles O57: in a block of any parameters an accepted V frame passes both checks, and N cells fit TW bits. -/
theorem anyBlockSumsAndCounts : Obligations.AnyBlockSumsAndCounts := by
  intro P s declared cells wh ah checksum len hr hn hcells hl hdecl hok
  have hlen : lengthOk declared s.curLen = true := by
    rw [State.curLen, hl, Option.getD_some, lengthOk, hdecl, beq_self_eq_true]
  obtain ⟨byp, hpass⟩ : ∃ byp, verdict s.cfgCsumEn s.sum checksum = .pass byp := by
    rcases hok with hen | hsum
    · exact ⟨_, by rw [verdict, hen]; rfl⟩
    · cases hen : s.cfgCsumEn <;> simp [verdict, hsum]
  have hexec : execute (.vframe declared cells wh ah checksum) s =
      .next (deliver .v byp (s.writeV (vRecordOf s.cfgK.toNat cells wh ah P))) := by
    simp only [execute, execVframe, complete, hr, hlen, hpass, if_true]
  refine ⟨_, _, hexec, rfl, rfl, totalOf_toNat (by rw [hcells]; exact Params.le_maxN hn), ?_⟩
  simp [deliver]

end Sys2Proof.Machine


/-! What one step between resets can change (spec/10_state.md, spec/60_exceptions.md section 4): the sequencer moves, and then at most one error entry or one delivery follows. -/

namespace Sys2Proof.Machine

/-! ### The sequencer's part of a step -/

/-- `u` is `s` with only the sequencer's registers moved: every configuration, record, error and counter register is that of `s`, and nothing has been emitted in this step. -/
def SequencerMove (s u : State) : Prop :=
  u = { s with phase := u.phase, cnt := u.cnt, last := u.last, cmdr := u.cmdr, kind := u.kind, len := u.len,
               sum := u.sum, buf := u.buf, input := u.input, out := none }

section
variable {s u : State}

theorem SequencerMove.config (h : SequencerMove s u) :
    u.cfgN = s.cfgN ∧ u.cfgK = s.cfgK ∧ u.cfgCsumEn = s.cfgCsumEn ∧ u.run = s.run := by
  rw [h]; exact ⟨rfl, rfl, rfl, rfl⟩

theorem SequencerMove.records (h : SequencerMove s u) : u.vRec = s.vRec ∧ u.mRec = s.mRec ∧ u.zRec = s.zRec := by
  rw [h]; exact ⟨rfl, rfl, rfl⟩

theorem SequencerMove.errors (h : SequencerMove s u) :
    u.errCode = s.errCode ∧ u.errCmd = s.errCmd ∧ u.errA = s.errA ∧ u.errB = s.errB := by
  rw [h]; exact ⟨rfl, rfl, rfl, rfl⟩

theorem SequencerMove.counters (h : SequencerMove s u) :
    u.cntOk = s.cntOk ∧ u.cntByp = s.cntByp ∧ u.cntFraming = s.cntFraming ∧ u.cntUnknown = s.cntUnknown ∧
    u.cntTrunc = s.cntTrunc ∧ u.cntCsum = s.cntCsum := by
  rw [h]; exact ⟨rfl, rfl, rfl, rfl, rfl, rfl⟩

theorem SequencerMove.events (h : SequencerMove s u) : u.out = none ∧ u.sent = s.sent := by
  rw [h]; exact ⟨rfl, rfl⟩

end

/-! ### The one effect that may follow -/

/-- What a step does once the sequencer has moved: nothing more, one error entry of a per-frame condition, or one delivery. -/
inductive StepEffect (u : State) : State → Prop
  | quiet : StepEffect u u
  | raised {e : ErrKind} (x a b : Byte) (he : e ≠ .configuration) : StepEffect u (raiseError e x a b u)
  | delivered {i : Instr} {k : Kind} (byp : Bool) (hk : i.kind? = some k) : StepEffect u (deliver k byp (recordWrite i u))

/-- R17: BUF as the step leaves it: unchanged, or with the received byte stored at offset CNT. -/
def BufferMove (s u : State) : Prop :=
  u.buf = s.buf ∨ (s.phase = .payload ∧ ∃ b, s.awaits (.rx b) ∧ u.buf = s.buf.write s.cnt.toNat b)

/-- A frame's meaning is one effect, on the state with the command latched or not. -/
theorem exec_effect {i : Instr} {s t : State} (h : exec i s = .next t) : ∃ c, StepEffect (s.latchCmd c) t := by
  rcases exec_next_cases h with ⟨-, rfl⟩ | ⟨e, x, a, b, he, -, rfl⟩ | ⟨k, byp, -, hk, rfl⟩
  · exact ⟨t.cmdr, .quiet⟩
  · exact ⟨_, .raised x a b he⟩
  · exact ⟨s.cmdr, .delivered byp hk⟩

theorem onRxHunt_move (b : Byte) (s : State) : SequencerMove s (onRxHunt b s.consume) ∧ (onRxHunt b s.consume).buf = s.buf := by
  unfold onRxHunt
  split <;> exact ⟨rfl, rfl⟩

theorem onTrunc_effect (s : State) : StepEffect s (onTrunc s) := by
  unfold onTrunc
  split
  · exact .quiet
  · exact .raised _ _ _ (by decide)
  · exact .raised _ _ _ (by decide)

/-- Everything a step without Reset changes: the sequencer and BUF move, and at most one effect follows (R37, R108). -/
theorem step_noReset_effect {s t : State} (hn : s.noReset) (h : step s = .next t) :
    ∃ u, SequencerMove s u ∧ BufferMove s u ∧ StepEffect u t := by
  rcases step_noReset_cases hn h with rfl | ⟨b, -, -, -, rfl⟩ | ⟨b, k, -, -, -, -, rfl⟩ | ⟨b, -, -, -, -, hexec⟩ |
    ⟨b, hb, -, hp, -, -, rfl⟩ | ⟨b, hb, -, hp, -, -, hexec⟩ | ⟨-, -, rfl⟩
  · exact ⟨s.consume, rfl, .inl rfl, .quiet⟩
  · obtain ⟨hmove, hbuf⟩ := onRxHunt_move b s
    exact ⟨onRxHunt b s.consume, hmove, .inl hbuf, .quiet⟩
  · exact ⟨latchKnown k b s.consume, rfl, .inl rfl, .quiet⟩
  · obtain ⟨c, heff⟩ := exec_effect hexec
    exact ⟨s.consume.latchCmd c, rfl, .inl rfl, heff⟩
  · refine ⟨_, ?_, ?_, .quiet⟩
    · rfl
    · exact .inr ⟨hp, b, hb, rfl⟩
  · obtain ⟨c, heff⟩ := exec_effect hexec
    refine ⟨_, ?_, ?_, heff⟩
    · rfl
    · exact .inr ⟨hp, b, hb, rfl⟩
  · exact ⟨s.consume, rfl, .inl rfl, onTrunc_effect _⟩

/-! ### What an effect keeps and changes -/

section
variable {u t : State}

theorem StepEffect.config (h : StepEffect u t) :
    t.cfgN = u.cfgN ∧ t.cfgK = u.cfgK ∧ t.cfgCsumEn = u.cfgCsumEn ∧ t.run = u.run := by
  cases h with
  | quiet => exact ⟨rfl, rfl, rfl, rfl⟩
  | raised x a b he => simp [raiseError]
  | @delivered i k byp hk => cases i <;> exact ⟨rfl, rfl, rfl, rfl⟩

theorem StepEffect.buf (h : StepEffect u t) : t.buf = u.buf := by
  cases h with
  | quiet => rfl
  | raised x a b he => simp [raiseError]
  | @delivered i k byp hk => cases i <;> rfl

theorem StepEffect.events (h : StepEffect u t) (hu : u.out = none) :
    (t.out = none ∧ t.sent = u.sent) ∨ ∃ e, t.out = some e ∧ t.sent = u.sent ++ [e] := by
  cases h with
  | quiet => exact .inl ⟨hu, rfl⟩
  | raised x a b he => exact .inr ⟨_, rfl, by simp [raiseError]⟩
  | @delivered i k byp hk => exact .inr ⟨_, rfl, by cases i <;> rfl⟩

/-- R20, R26: a decoder writes the group of its kind and no other. -/
theorem StepEffect.records (h : StepEffect u t) :
    (t.vRec = u.vRec ∨ (t.vRec.isSome ∧ ∃ byp, t.out = some (.record .v byp))) ∧
    (t.mRec = u.mRec ∨ (t.mRec.isSome ∧ ∃ byp, t.out = some (.record .m byp))) ∧
    (t.zRec = u.zRec ∨ (t.zRec.isSome ∧ ∃ byp, t.out = some (.record .z byp))) := by
  cases h with
  | quiet => exact ⟨.inl rfl, .inl rfl, .inl rfl⟩
  | raised x a b he => simp [raiseError]
  | @delivered i k byp hk =>
    cases i <;> cases hk
    · exact ⟨.inr ⟨rfl, byp, rfl⟩, .inl rfl, .inl rfl⟩
    · exact ⟨.inl rfl, .inr ⟨rfl, byp, rfl⟩, .inl rfl⟩
    · exact ⟨.inl rfl, .inl rfl, .inr ⟨rfl, byp, rfl⟩⟩

/-- R29: a counter grows exactly with its own event. -/
theorem StepEffect.counters (h : StepEffect u t) (hu : u.out = none) :
    t.cntOk = u.cntOk + growth OutEvent.isRecord t.out ∧
    t.cntByp = u.cntByp + growth OutEvent.isBypassed t.out ∧
    t.cntFraming = u.cntFraming + growth (OutEvent.hasCode 1) t.out ∧
    t.cntUnknown = u.cntUnknown + growth (OutEvent.hasCode 2) t.out ∧
    t.cntTrunc = u.cntTrunc + growth (OutEvent.hasCode 3) t.out ∧
    t.cntCsum = u.cntCsum + growth (OutEvent.hasCode 4) t.out := by
  cases h with
  | quiet => simp [hu, growth]
  | @raised e x a b he =>
    cases e with
    | configuration => exact absurd rfl he
    | _ => simp [raiseError, growth, OutEvent.isRecord, OutEvent.isBypassed, OutEvent.hasCode, ErrKind.code]
  | @delivered i k byp hk =>
    cases i <;> cases byp <;> simp [deliver, recordWrite, growth, OutEvent.isRecord, OutEvent.isBypassed, OutEvent.hasCode]

/-- R178 to R181: an Err event shows what error entry wrote, in the home state; without one the error registers stay. -/
theorem StepEffect.errors (h : StepEffect u t) (hu : u.out = none) :
    (∀ c x a b, t.out = some (.error c x a b) →
      t.errCode = c ∧ t.errCmd = x ∧ t.errA = a ∧ t.errB = b ∧ t.isHome ∧
      t.vRec = u.vRec ∧ t.mRec = u.mRec ∧ t.zRec = u.zRec) ∧
    ((∀ c x a b, t.out ≠ some (.error c x a b)) →
      t.errCode = u.errCode ∧ t.errCmd = u.errCmd ∧ t.errA = u.errA ∧ t.errB = u.errB) := by
  cases h with
  | quiet => exact ⟨fun c x a b hout => by simp [hu] at hout, fun _ => ⟨rfl, rfl, rfl, rfl⟩⟩
  | raised x a b he =>
    refine ⟨fun c x' a' b' hout => ?_, fun hno => absurd rfl (hno _ x a b)⟩
    cases hout
    simp [raiseError, State.isHome]
  | @delivered i k byp hk =>
    refine ⟨fun c x a b hout => (by cases hout), fun _ => ?_⟩
    cases i <;> exact ⟨rfl, rfl, rfl, rfl⟩

end

/-! ### The obligations -/

/-- Settles O5: neither the sequencer's move nor an effect writes a configuration register. -/
theorem configurationFixedBetweenResets : Obligations.ConfigurationFixedBetweenResets := by
  intro s t hn h
  obtain ⟨u, hmove, -, heff⟩ := step_noReset_effect hn h
  obtain ⟨hn', hk', hen', hrun'⟩ := heff.config
  rw [hn', hk', hen', hrun']
  exact hmove.config

/-- Settles O8: a Reset emits at most its ConfigurationError, any other step at most the event of its one effect. -/
theorem atMostOneOutputEventPerStep : Obligations.AtMostOneOutputEventPerStep := by
  intro s t h
  rcases awaits_reset_or_noReset s with ⟨n, k, en, hreset⟩ | hn
  · rw [step_event hreset] at h
    cases h
    unfold applyReset
    split
    · exact .inl ⟨rfl, rfl⟩
    · exact .inr ⟨_, rfl, rfl⟩
  · obtain ⟨u, hmove, -, heff⟩ := step_noReset_effect hn h
    obtain ⟨hout, hsent⟩ := hmove.events
    rw [← hsent]
    exact heff.events hout

/-- Settles O20: only a capture stores to BUF, at offset CNT, and no effect touches BUF. -/
theorem bufferChangesOnlyAtCnt : Obligations.BufferChangesOnlyAtCnt := by
  intro s t hn h
  obtain ⟨u, -, hbuf, heff⟩ := step_noReset_effect hn h
  rw [heff.buf]
  rcases hbuf with hsame | ⟨hp, b, hb, hwrite⟩
  · exact .inl fun o => by rw [hsame]
  · rw [hwrite]
    exact .inr ⟨hp, b, hb, Memory.read_write_same _ _ _, fun o ho => Memory.read_write_other _ _ _ _ ho⟩

/-- A record group that an effect leaves or fills keeps its valid bit (R26). -/
theorem isSome_of_eq_or_filled {α : Type} {old new : Option α} {p : Prop} (h : new = old ∨ (new.isSome ∧ p)) :
    old.isSome → new.isSome := by
  rcases h with rfl | ⟨hsome, -⟩
  · exact id
  · exact fun _ => hsome

/-- Settles O38: the effect of the step is read off group by group. -/
theorem recordsChangeOnlyByDelivery : Obligations.RecordsChangeOnlyByDelivery := by
  intro s t hn h
  obtain ⟨u, hmove, -, heff⟩ := step_noReset_effect hn h
  obtain ⟨hv, hm, hz⟩ := heff.records
  obtain ⟨hv', hm', hz'⟩ := hmove.records
  rw [hv'] at hv
  rw [hm'] at hm
  rw [hz'] at hz
  exact ⟨hv.imp_right And.right, hm.imp_right And.right, hz.imp_right And.right,
    isSome_of_eq_or_filled hv, isSome_of_eq_or_filled hm, isSome_of_eq_or_filled hz⟩

/-- Settles O39: the effect of the step counts its own event. -/
theorem countersFollowTheOutputEvents : Obligations.CountersFollowTheOutputEvents := by
  intro s t hn h
  obtain ⟨u, hmove, -, heff⟩ := step_noReset_effect hn h
  obtain ⟨hok, hbyp, hframing, hunknown, htrunc, hcsum⟩ := hmove.counters
  rw [← hok, ← hbyp, ← hframing, ← hunknown, ← htrunc, ← hcsum]
  obtain ⟨hout, -⟩ := hmove.events
  exact heff.counters hout

/-- Settles O40: the error registers are written by error entry alone. -/
theorem errorRegistersShowTheLastError : Obligations.ErrorRegistersShowTheLastError := by
  intro s t hn h
  obtain ⟨u, hmove, -, heff⟩ := step_noReset_effect hn h
  obtain ⟨hcode, hcmd, ha, hb⟩ := hmove.errors
  obtain ⟨hv, hm, hz⟩ := hmove.records
  rw [← hcode, ← hcmd, ← ha, ← hb, ← hv, ← hm, ← hz]
  obtain ⟨hout, -⟩ := hmove.events
  exact heff.errors hout

end Sys2Proof.Machine


/-! Whole frames, byte by byte (spec/40 to spec/42): the bytes of a frame from the home state do what exec of the frame does; well-built frames are delivered, and one changed byte is caught. -/

namespace Sys2Proof.Machine

/-! ### The frame in progress -/

/-- The state in which the captured bytes `bs` of a frame of kind `k`, received from the home state of `s`, are complete and the frame runs (R100 to R104, R115, R116). -/
def State.holdingBytes (k : Kind) (bs : List Byte) (rest : List Pins) (s : State) : State :=
  { s with
    cmdr := k.cmd, kind := some k, len := some (BitVec.ofNat _ (k.len s.cfgN.toNat)),
    cnt := BitVec.ofNat _ (k.len s.cfgN.toNat), sum := prefixSum k.cmd + byteSum bs.dropLast,
    buf := s.buf.writeAll 0 bs, phase := .payload, last := 0x00, input := rest, out := none }

/-- R115, R116: the running sum of a whole frame is the checksum R75 gives it. -/
theorem prefixSum_add_summed {i : Instr} {k : Kind} (hk : i.kind? = some k) :
    prefixSum k.cmd + byteSum (i.summed ++ i.tail).dropLast = wireChecksum i := by
  rw [dropLast_captured hk, wireChecksum, prefixSum, cmd_of_kind hk]
  simp only [byteSum, BitVec.add_assoc]

theorem holdingFrame_eq_holdingBytes {i : Instr} {k : Kind} (hk : i.kind? = some k) (rest : List Pins) (s : State) :
    s.holdingFrame i rest = s.holdingBytes k (i.summed ++ i.tail) rest := by
  rw [State.holdingFrame, State.holdingBytes, prefixSum_add_summed hk, hk, cmd_of_kind hk]

/-- LEN of a frame in progress asks for the declared length of its kind (R62, R106). -/
theorem expectedDeclared_holdingBytes {k : Kind} {bs : List Byte} {rest : List Pins} {s : State}
    (hkl : k.len s.cfgN.toNat ≤ 42) :
    expectedDeclared (s.holdingBytes k bs rest).curLen = Kind.declared s.cfgN.toNat k :=
  expectedDeclared_of_kind hkl

/-! ### Running the bytes -/

/-- One step that is the whole run. -/
theorem runSteps_one (s : State) : runSteps 1 s = step s := by
  rw [runSteps]
  cases step s <;> rfl

/-- Settles O50: the marker pair, then either the capture of the frame's bytes, which the decoder reads back, or the one unknown command byte. -/
theorem bytesOfAFrameRunItsMeaning : Obligations.BytesOfAFrameRunItsMeaning := by
  intro s i rest hi hr hp hl hw hin
  cases hk : i.kind? with
  | some k =>
    rw [encode_of_kind hk] at hin ⊢
    have hrun := run_frame s k (i.summed ++ i.tail) rest (hi.len_le hr k) hr hp hl (captured_length hk hw) hin
    rw [decodeFields_captured hk hw] at hrun
    rw [holdingFrame_eq_holdingBytes hk]
    exact hrun
  | none =>
    rw [eq_unknown_of_kind?_none hk] at hin hw ⊢
    have hb := rx_awaits (s.holdingFrame (.unknown i.cmd) ((Event.rx i.cmd).pins :: rest)) i.cmd rest rfl
    refine (run_markers (inp := (Event.rx i.cmd).pins :: rest) hr hp hl hin 1).trans ?_
    exact (runSteps_one _).trans (step_unknown hb hr rfl (kindOfCmd_eq_none.mpr hw))

/-! ### Well-built frames (R75) -/

theorem frameCheck_of_ends {i : Instr} {k : Kind} {d c : Byte} (hk : i.kind? = some k)
    (hd : i.summed.head? = some d) (hc : i.tail = [c]) : frameCheck i = some (k, d, c) := by
  cases i <;> cases hk <;> cases hd <;> cases hc <;> rfl

/-- Every frame built with a correct length and checksum is delivered with byp = 0 (R122). -/
theorem run_built {s : State} {i : Instr} {rest : List Pins} (hi : Inv s) (hr : s.run = true) (hp : s.phase = .hunt)
    (hl : s.last ≠ 0x24) (hbuilt : BuiltFrame s.cfgN.toNat i) (hin : s.input = rxEdges (encode i) ++ rest) :
    ∃ k, i.kind? = some k ∧
      runSteps (encode i).length s = .next (deliver k false (recordWrite i (s.holdingFrame i rest))) := by
  obtain ⟨k, hk, hw, htail, hhead⟩ := hbuilt.facts
  have hkl := hi.len_le hr k
  have hhold := holdingFrame_eq_holdingBytes hk rest s
  have hsum : (s.holdingFrame i rest).sum = wireChecksum i := by
    rw [hhold, ← prefixSum_add_summed hk]; rfl
  refine ⟨k, hk, ?_⟩
  rw [bytesOfAFrameRunItsMeaning s i rest hi hr hp hl hw hin,
    exec_delivers (frameCheck_of_ends hk hhead htail) (by rw [hhold]; exact hr)
      (by rw [hhold, expectedDeclared_holdingBytes hkl]) (.inr hsum), hsum, bne_self_eq_false]

/-- Settles O51: the delivered group is the one the frame's decoder writes. -/
theorem wellBuiltFramesAreDelivered : Obligations.WellBuiltFramesAreDelivered := by
  intro s rest hi hr hp hl
  refine ⟨fun cells wh ah hc hin => ?v, fun eoc mode cur t1 t2 soc hin => ?m, fun mode cur res hc hin => ?z⟩
  case v =>
    obtain ⟨k, hk, hrun⟩ := run_built hi hr hp hl (.inl ⟨cells, wh, ah, hc, rfl⟩) hin
    cases hk
    exact ⟨_, hrun, rfl, ⟨rfl, rfl, rfl⟩, rfl, rfl, rfl⟩
  case m =>
    obtain ⟨k, hk, hrun⟩ := run_built hi hr hp hl (.inr (.inl ⟨eoc, mode, cur, t1, t2, soc, rfl⟩)) hin
    cases hk
    exact ⟨_, hrun, rfl, ⟨rfl, rfl, rfl⟩, rfl, rfl, rfl⟩
  case z =>
    obtain ⟨k, hk, hrun⟩ := run_built hi hr hp hl (.inr (.inr ⟨mode, cur, res, hc, rfl⟩)) hin
    cases hk
    exact ⟨_, hrun, rfl, ⟨rfl, rfl, rfl⟩, rfl, rfl, rfl⟩

/-! ### One changed byte (R121) -/

/-- A byte at wire index 3 or later is one of the captured bytes. -/
theorem encode_set_captured {i : Instr} {k : Kind} (hk : i.kind? = some k) (j : Nat) (v : Byte) :
    (encode i).set (j + 3) v = mark :: mark :: k.cmd :: (i.summed ++ i.tail).set j v := by
  rw [encode_of_kind hk]
  rfl

theorem encode_getElem?_captured {i : Instr} {k : Kind} (hk : i.kind? = some k) (j : Nat) :
    (encode i)[j + 3]? = (i.summed ++ i.tail)[j]? := by
  rw [encode_of_kind hk]
  rfl

/-- The bytes of a frame of kind `k`, captured byte `j` changed to `v`, run the frame the changed bytes decode to; its declared-length and checksum bytes are the first and the last of them. -/
theorem run_changed {s : State} {i : Instr} {k : Kind} {j : Nat} {v : Byte} {rest : List Pins} (hi : Inv s)
    (hr : s.run = true) (hp : s.phase = .hunt) (hl : s.last ≠ 0x24) (hk : i.kind? = some k) (hw : i.wf s.cfgN.toNat = true)
    (hin : s.input = rxEdges ((encode i).set (j + 3) v) ++ rest) :
    ∃ i', runSteps (encode i).length s = exec i' (s.holdingBytes k ((i.summed ++ i.tail).set j v) rest) ∧
      frameCheck i' = some (k, byteAt ((i.summed ++ i.tail).set j v) 0,
        byteAt ((i.summed ++ i.tail).set j v) (k.len s.cfgN.toNat - 1)) := by
  rw [encode_set_captured hk] at hin
  have hlen : ((i.summed ++ i.tail).set j v).length = k.len s.cfgN.toNat := by
    rw [List.length_set, captured_length hk hw]
  have hrun := run_frame s k _ rest (hi.len_le hr k) hr hp hl hlen hin
  refine ⟨_, ?_, frameCheck_decodeFields s.cfgN.toNat _ k⟩
  rw [List.length_set] at hrun
  rw [encode_of_kind hk]
  exact hrun

/-- R121: where `p` and the bytes `l` sum to the checksum byte behind them, they no longer do once one of all these bytes is changed. -/
theorem sum_ne_checksum_of_changed {p c v : Byte} {l : List Byte} {j : Nat} (hsum : p + byteSum l = c)
    (hj : j ≤ l.length) (hv : (l ++ [c])[j]? ≠ some v) :
    p + byteSum ((l ++ [c]).set j v).dropLast ≠ byteAt ((l ++ [c]).set j v) l.length := by
  rcases Nat.lt_or_eq_of_le hj with hlt | rfl
  · rw [List.set_append_left _ _ hlt, List.dropLast_concat, byteAt_append_right (by simp)]
    rw [List.getElem?_append_left hlt, List.getElem?_eq_getElem hlt] at hv
    have hset := byteSum_set l j v l[j] (List.getElem?_eq_getElem hlt)
    intro heq
    have hkept : byteSum (l.set j v) = byteSum l := by
      rw [List.length_set, Nat.sub_self, byteAt_cons_zero, ← hsum] at heq
      exact (BitVec.add_right_inj p).mp heq
    rw [hkept] at hset
    exact hv (congrArg some ((BitVec.add_right_inj _).mp hset))
  · rw [List.set_append_right _ _ (Nat.le_refl _), Nat.sub_self, List.set_cons_zero, List.dropLast_concat,
      byteAt_append_right (Nat.le_refl _), Nat.sub_self, byteAt_cons_zero, hsum]
    rintro rfl
    exact hv (by simp)

theorem byteAt_of_getElem? {f : List Byte} {o : Nat} {b : Byte} (h : f[o]? = some b) : byteAt f o = b := by
  rw [byteAt, List.getD_eq_getElem?_getD, h, Option.getD_some]

/-- Settles O52: the declared length is still right, and the changed byte is either summed or the checksum byte itself, so SUM and the last byte differ. -/
theorem oneChangedByteIsCaught : Obligations.OneChangedByteIsCaught := by
  intro s i w v rest hi hr hen hp hl hbuilt h4 hw hne hin
  obtain ⟨k, hk, hwf, htail, hhead⟩ := hbuilt.facts
  obtain ⟨j, rfl⟩ : ∃ j, w = (j + 1) + 3 := ⟨w - 4, by omega⟩
  obtain ⟨i', hrun, hf⟩ := run_changed hi hr hp hl hk hwf hin
  have hlen := captured_length hk hwf
  rw [encode_getElem?_captured hk, htail] at hne
  rw [encode_of_kind hk] at hw
  simp only [List.length_cons, hlen] at hw
  rw [htail, List.length_append, List.length_singleton] at hlen
  rw [htail, ← hlen, Nat.add_sub_cancel] at hf
  rw [htail] at hrun
  have hdecl : byteAt ((i.summed ++ [wireChecksum i]).set (j + 1) v) 0 = Kind.declared s.cfgN.toNat k := by
    apply byteAt_of_getElem?
    rw [List.getElem?_set_ne (by omega), ← List.head?_eq_getElem?, List.head?_append, hhead, Option.some_or]
  rw [hdecl] at hf
  have hsum : prefixSum k.cmd + byteSum i.summed = wireChecksum i := by
    rw [← prefixSum_add_summed hk, dropLast_captured hk]
  have hdiff := sum_ne_checksum_of_changed hsum (by omega) hne
  refine ⟨_, _, _, hrun.trans (exec_mismatch hf hr (expectedDeclared_holdingBytes (hi.len_le hr k)).symm hen hdiff),
    ?_, hdiff, ⟨rfl, rfl, rfl⟩, rfl, rfl, rfl, rfl⟩
  rw [cmd_of_kind hk]
  rfl

/-- Settles O53: the changed byte is the declared length, and the length check comes first. -/
theorem changedLengthByteIsFramingError : Obligations.ChangedLengthByteIsFramingError := by
  intro s i v rest hi hr hp hl hbuilt hne hin
  obtain ⟨k, hk, hwf, -, hhead⟩ := hbuilt.facts
  obtain ⟨i', hrun, hf⟩ := run_changed (j := 0) hi hr hp hl hk hwf hin
  have hexp := expectedDeclared_holdingBytes (bs := (i.summed ++ i.tail).set 0 v) (rest := rest) (hi.len_le hr k)
  have hbyte : (encode i)[3]? = some (Kind.declared s.cfgN.toNat k) := by
    rw [encode_getElem?_captured hk 0, ← List.head?_eq_getElem?, List.head?_append, hhead, Option.some_or]
  have hv : byteAt ((i.summed ++ i.tail).set 0 v) 0 = v := by
    apply byteAt_of_getElem?
    apply List.getElem?_set_self
    rw [captured_length hk hwf]
    cases k <;> simp [Kind.len]
  rw [hv] at hf
  rw [hbyte] at hne
  refine ⟨_, _, hrun.trans (exec_framing hf hr ?_), ?_, hbyte, ⟨rfl, rfl, rfl⟩, rfl, rfl, rfl, rfl⟩
  · rw [hexp]
    rintro rfl
    exact hne rfl
  · rw [cmd_of_kind hk, hexp]
    rfl

/-! ### A frame in progress -/

theorem Inv.cnt_lt {s : State} {k : Kind} (hi : Inv s) (hp : s.phase = .payload) (hlat : s.latched k) :
    s.cnt.toNat < k.len s.cfgN.toNat := by
  obtain ⟨-, -, hpayload⟩ := hi.sequencer
  obtain ⟨k', ⟨-, hk', -⟩, hcnt, -, -⟩ := hpayload hp
  obtain ⟨-, hk, -⟩ := hlat
  rw [hk] at hk'
  cases hk'
  exact hcnt

/-- Settles O44: the remaining bytes run some frame, and a running block answers every frame with one event and the home state. -/
theorem frameEndsWithItsLastByte : Obligations.FrameEndsWithItsLastByte := by
  intro s k bs rest hi hr hp hlat hlen hin
  have hcnt := hi.cnt_lt hp hlat
  have hne : bs ≠ [] := by
    rintro rfl
    rw [List.length_nil] at hlen
    omega
  rw [run_capture k bs s rest hr hp hlat (hi.len_le hr k) hne (by omega) hin]
  exact exec_running hr

end Sys2Proof.Machine


/-! One event (spec/10_state.md sections 7 and 8, spec/40_synchronizer.md, spec/60_exceptions.md section 5, spec/70_reset_and_hazards.md section 1): Reset, HALT, the pins and the output ports, HUNT, and a captured byte. -/

namespace Sys2Proof.Machine

/-! ### Reset (R39, R190, R193) -/

theorem step_reset {s : State} {n k : Byte} {en : Bool} (h : s.awaits (.reset n k en)) :
    step s = .next (applyReset n k en s.consume) := step_event h

section
variable {P : Params} {n k : Byte}

/-- R6 as a proposition. -/
theorem legalConfig_iff : legalConfig P n k = true ↔ n ∈ P.supportedN ∧ 1 ≤ k.toNat ∧ k.toNat ≤ n.toNat := by
  simp [legalConfig, and_assoc]

theorem applyReset_legal (en : Bool) (s : State P) (h : n ∈ P.supportedN ∧ 1 ≤ k.toNat ∧ k.toNat ≤ n.toNat) :
    applyReset n k en s = resetRegisters n k en s := if_pos (legalConfig_iff.mpr h)

theorem applyReset_illegal (en : Bool) (s : State P) (h : ¬ (n ∈ P.supportedN ∧ 1 ≤ k.toNat ∧ k.toNat ≤ n.toNat)) :
    applyReset n k en s = (({ resetRegisters n k en s with run := false }).setError 5 0x00 n k).emit (.error 5 0x00 n k) :=
  if_neg fun hlegal => h (legalConfig_iff.mp hlegal)

end

/-- Settles O2: a legal configuration leaves the table of R39, any other the same with HALT and ConfigurationError. -/
theorem resetGivesTheResetTable : Obligations.ResetGivesTheResetTable := by
  intro s n k en hreset legal base
  rw [step_reset hreset]
  refine ⟨fun hlegal => ?legal, fun hillegal => ?illegal⟩
  case legal => rw [applyReset_legal en _ hlegal]; rfl
  case illegal => rw [applyReset_illegal en _ hillegal]; rfl

/-- Settles O1: the legal row of the reset table. -/
theorem legalResetEntersHome : Obligations.LegalResetEntersHome := by
  intro s n k en hreset hn h1 hk
  obtain ⟨htable, -⟩ := resetGivesTheResetTable s n k en hreset
  exact ⟨_, htable ⟨hn, h1, hk⟩, rfl, rfl, rfl, rfl, rfl, rfl, rfl, rfl, rfl, rfl, rfl, rfl, rfl, rfl, rfl⟩

/-- Settles O56: the check of R6 decides between the two forms of Reset, for any parameters. -/
theorem anyBlockChecksItsConfiguration : Obligations.AnyBlockChecksItsConfiguration := by
  intro P s n k en
  refine ⟨applyReset n k en s, rfl, ?_⟩
  by_cases hlegal : n ∈ P.supportedN ∧ 1 ≤ k.toNat ∧ k.toNat ≤ n.toNat
  · rw [applyReset_legal en s hlegal]
    exact ⟨rfl, rfl, rfl, ⟨fun _ => hlegal, fun _ => rfl⟩, nofun⟩
  · rw [applyReset_illegal en s hlegal]
    exact ⟨rfl, rfl, rfl, ⟨nofun, fun h => absurd h hlegal⟩, fun _ => rfl⟩

/-! ### HALT (R183) -/

theorem onEvent_halted {s : State} {e : Event} (hr : s.run = false) (he : ∀ n k en, e ≠ .reset n k en) :
    onEvent e s = .next s := by
  cases e with
  | reset n k en => exact absurd rfl (he n k en)
  | rx b => simp [onEvent, hr]
  | trunc => simp [onEvent, hr]

/-- Settles O3: an event that is no Reset meets RUN = 0. -/
theorem haltIsInert : Obligations.HaltIsInert := by
  intro s e hr he hn
  rw [step_event he]
  refine onEvent_halted (s := s.consume) hr fun n k en heq => hn n k en ?_
  rw [← heq]
  exact he

/-- Settles O4: the first of the things exec can do is the only one with RUN = 0. -/
theorem haltedBlockTakesNoFrame : Obligations.HaltedBlockTakesNoFrame := by
  intro i s hr
  rcases exec_cases i s with ⟨-, h⟩ | ⟨hrun, -⟩ | ⟨k, d, c, hrun, -⟩ | ⟨k, d, c, hrun, -⟩ | ⟨k, d, c, hrun, -⟩
  case inl => exact h
  all_goals rw [hr] at hrun; cases hrun

/-! ### The pins and the ports (R36, R38) -/

/-- Settles O6: the edge is sampled in the order of R36. -/
theorem pinsAreSampledByPriority : Obligations.PinsAreSampledByPriority := by
  intro s p rest hin
  have hp : s.nextPins = p := by rw [State.nextPins, hin, List.headD_cons]
  refine ⟨fun hrst => ?reset, fun hrst hv ht => ?rx, fun hrst hv ht => ?trunc, fun hrst hv ht => ?idle, fun hrst hv ht => ?both⟩
  case reset => simp [State.awaits, hp, Pins.sample, hrst]
  case rx => simp [State.awaits, hp, Pins.sample, hrst, hv, ht]
  case trunc => simp [State.awaits, hp, Pins.sample, hrst, hv, ht]
  case idle =>
    rw [step_idle (by simp [hp, Pins.sample, hrst, hv, ht]), State.consume, hin, List.tail_cons]
  case both =>
    have houtside : s.nextPins.sample = .outsideContract := by simp [hp, Pins.sample, hrst, hv, ht]
    simp [step, clockEdge, onPins, houtside]

/-- Settles O7: an empty queue is an edge without event. -/
theorem noInputNoChange : Obligations.NoInputNoChange := by
  intro s hin
  have hidle : s.nextPins.sample = .idle := by rw [State.nextPins, hin]; rfl
  rw [step_idle hidle, State.consume, hin, List.tail_nil, ← hin]

/-- Settles O9: the register ports by definition; the event ports by the kind of event, if any. -/
theorem outputPortsShowTheState : Obligations.OutputPortsShowTheState := by
  intro s p
  have hevent : ¬ (p.recValid = true ∧ p.errValid = true) ∧
      (p.recValid = true ↔ ∃ k byp, s.out = some (.record k byp)) ∧
      (p.errValid = true ↔ ∃ c x a b, s.out = some (.error c x a b)) ∧
      (∀ k byp, s.out = some (.record k byp) → p.recKind = some k.code ∧ p.recByp = some byp) := by
    simp only [p, State.ports]
    rcases s.out with _ | ⟨k, byp⟩ | ⟨c, x, a, b⟩ <;> simp
  obtain ⟨hboth, hrec, herr, hkind⟩ := hevent
  exact ⟨hboth, rfl, hrec, herr, fun byp => ⟨hkind .v byp, hkind .m byp, hkind .z byp⟩, ⟨rfl, rfl, rfl, rfl⟩, ⟨rfl, rfl, rfl⟩,
    ⟨rfl, rfl, rfl⟩, ⟨rfl, rfl, rfl, rfl, rfl, rfl⟩, Option.isSome_iff_exists, Option.isSome_iff_exists,
    Option.isSome_iff_exists⟩

/-! ### HUNT (R91 to R93, R96) -/

/-- Settles O10: LAST and the byte are not both the marker. -/
theorem noiseByteIsAbsorbed : Obligations.NoiseByteIsAbsorbed := by
  intro s b hb hr hp hno
  rw [step_hunt hb hr hp, onRxHunt]
  exact congrArg _ (if_neg hno)

/-- Settles O11: LAST and the byte are both the marker. -/
theorem markerPairIsDetected : Obligations.MarkerPairIsDetected := by
  intro s hb hr hp hl
  rw [step_hunt hb hr hp, onRxHunt]
  exact congrArg _ (if_pos ⟨hl, rfl⟩)

/-- Settles O12: Trunc in HUNT. -/
theorem truncInHuntHasNoEffect : Obligations.TruncInHuntHasNoEffect := by
  intro s ht hr hp
  rw [step_trunc ht hr, onTrunc, State.consume_phase, hp]

/-- R91: one byte of noise at the head of the input. -/
theorem step_noise {s : State} {b : Byte} {inp : List Pins} (hr : s.run = true) (hp : s.phase = .hunt)
    (hno : ¬ (s.last = mark ∧ b = mark)) (hin : s.input = (Event.rx b).pins :: inp) :
    step s = .next { s with last := b, input := inp, out := none } := by
  rw [noiseByteIsAbsorbed s b (rx_awaits s b inp hin) hr hp hno, State.consume, hin, List.tail_cons]

theorem noMarkerPair_cons {prev b : Byte} {bs : List Byte} :
    noMarkerPair prev (b :: bs) = true ↔ ¬ (prev = mark ∧ b = mark) ∧ noMarkerPair b bs = true := by
  simp [noMarkerPair, -not_and, not_and_or]

/-- R96: noise of any length, with the strobes already ended. -/
theorem run_noise (bs : List Byte) : ∀ (s : State) (rest : List Pins), s.run = true → s.phase = .hunt → s.out = none →
    noMarkerPair s.last bs = true → s.input = rxEdges bs ++ rest →
    runSteps bs.length s = .next { s with last := bs.getLastD s.last, input := rest } := by
  induction bs with
  | nil =>
    intro s rest _ _ _ _ hin
    rw [show rest = s.input from hin.symm]
    rfl
  | cons b bs ih =>
    intro s rest hr hp hout hnoise hin
    obtain ⟨hno, htail⟩ := noMarkerPair_cons.mp hnoise
    rw [List.length_cons, runSteps, step_noise hr hp hno hin]
    refine (ih { s with last := b, input := rxEdges bs ++ rest, out := none } rest hr hp rfl htail rfl).trans ?_
    rw [List.getLastD_cons, ← hout]

/-- Settles O13: the first byte ends the strobes of the step before; the rest is noise without them. -/
theorem noiseStreamChangesOnlyLast : Obligations.NoiseStreamChangesOnlyLast := by
  intro s bs rest hr hp hne hnoise hin
  obtain ⟨b, bs, rfl⟩ := List.exists_cons_of_ne_nil hne
  obtain ⟨hno, htail⟩ := noMarkerPair_cons.mp hnoise
  rw [List.length_cons, runSteps, step_noise hr hp hno hin, List.getLastD_cons]
  exact run_noise bs { s with last := b, input := rxEdges bs ++ rest, out := none } rest hr hp rfl htail rfl

/-! ### CMD and error entry -/

/-- Settles O16: Trunc in CMD is an error entry with no information. -/
theorem truncInCmdIsTruncatedFrame : Obligations.TruncInCmdIsTruncatedFrame := by
  intro s ht hr hp
  rw [step_trunc ht hr, onTrunc, State.consume_phase, hp]
  exact congrArg _ (raiseError_truncated 0x00 0x00 0x00 s.consume)

/-- Settles O29: error entry as one record update, condition by condition. -/
theorem errorEntryWritesOnlyItsOwn : Obligations.ErrorEntryWritesOnlyItsOwn := fun s cmd a b =>
  ⟨raiseError_framing cmd a b s, raiseError_unknownCommand cmd a b s, raiseError_truncated cmd a b s,
    raiseError_checksumMismatch cmd a b s⟩

/-! ### A captured byte (R104, R116) -/

/-- A byte stored, summed and counted. -/
def State.captureByte (b : Byte) (s : State) : State := (s.setBuf (s.buf.write s.cnt.toNat b)).countByte b

/-- R104 below BUFSZ: the byte is captured, and the frame runs if it is complete. -/
theorem onRxPayload_eq {s : State} (b : Byte) (h42 : s.cnt.toNat < 42) : onRxPayload b s =
    if s.cnt + 1 = s.curLen then exec (capturedFrame (s.captureByte b)) (s.captureByte b) else .next (s.captureByte b) := by
  rcases onRxPayload_cases b s with ⟨hfull, -⟩ | ⟨-, hgoes, h⟩ | ⟨-, hends, h⟩
  · rw [Config.params_bufSize] at hfull; omega
  · rw [if_neg hgoes, h]; rfl
  · rw [if_pos hends, h]; rfl

theorem onRxPayload_full {s : State} (b : Byte) (h42 : 42 ≤ s.cnt.toNat) : onRxPayload b s = .fault .bufferRange := by
  rcases onRxPayload_cases b s with ⟨-, h⟩ | ⟨hroom, -⟩ | ⟨hroom, -⟩
  · exact h
  · rw [Config.params_bufSize] at hroom; omega
  · rw [Config.params_bufSize] at hroom; omega

theorem captureByte_eq {s : State} {len : Count} (b : Byte) (hl : s.len = some len) : s.captureByte b =
    { s with buf := s.buf.write s.cnt.toNat b, sum := accumulate s.sum b s.cnt len, cnt := s.cnt + 1 } := by
  have hlen : s.curLen = len := by rw [State.curLen, hl, Option.getD_some]
  rw [← hlen]
  rfl

/-- Settles O18: the captured byte, with LEN read from its register. -/
theorem byteIsCaptured : Obligations.ByteIsCaptured := by
  intro s b len hb hr hp hl h42 u
  have hlen : s.consume.curLen = len := by rw [State.curLen, State.consume_len, hl, Option.getD_some]
  have hu : s.consume.captureByte b = u := captureByte_eq b hl
  rw [step_event hb, onEvent_rx_payload (u := s.consume) b hr hp, onRxPayload_eq (s := s.consume) b h42, hlen, hu]
  rfl

end Sys2Proof.Machine


/-! The invariants (spec/10_state.md R15 and the rules Inv names): Reset establishes them, every step keeps them, and a state that meets them takes every input the contract allows. -/

namespace Sys2Proof.Machine

/-! ### Parts of the invariant -/

theorem Inv.consume {s : State} (hi : Inv s) : Inv s.consume :=
  ⟨hi.config, hi.sequencer, hi.halt, hi.error, hi.records, hi.buffer⟩

/-- The kind of the frame being captured, and what R15 says of it. -/
theorem Inv.payload {s : State} (hi : Inv s) (hp : s.phase = .payload) :
    ∃ k : Kind, s.latched k ∧ s.cnt.toNat < k.len s.cfgN.toNat ∧ (∀ o, o < s.cnt.toNat → (s.buf.read o).isSome) ∧
      s.sum = prefixSum s.cmdr + byteSum (captured s s.cnt.toNat) := by
  obtain ⟨-, -, hpayload⟩ := hi.sequencer
  exact hpayload hp

theorem Inv.cnt_eq_zero {s : State} (hi : Inv s) (hp : s.phase ≠ .payload) : s.cnt = 0 := by
  obtain ⟨-, hcnt, -⟩ := hi.sequencer
  exact hcnt hp

theorem Inv.last_eq_zero {s : State} (hi : Inv s) (hp : s.phase ≠ .hunt) : s.last = 0x00 := by
  obtain ⟨hlast, -, -⟩ := hi.sequencer
  exact hlast hp

theorem State.latched.curLen {s : State} {k : Kind} (h : s.latched k) : s.curLen = BitVec.ofNat _ (k.len s.cfgN.toNat) := by
  obtain ⟨-, -, hlen⟩ := h
  rw [State.curLen, hlen, Option.getD_some]

/-- The invariants of a running block that do not speak of the sequencer. -/
structure ResultInv (s : State) : Prop where
  running : s.run = true
  config : ConfigInv s
  error : ErrorInv s
  records : RecordInv s
  buffer : BufferInv s

theorem Inv.results {s : State} (hi : Inv s) (hr : s.run = true) : ResultInv s :=
  ⟨hr, hi.config, hi.error, hi.records, hi.buffer⟩

/-- R183 asks nothing of a running block. -/
theorem ResultInv.haltInv {s : State} (h : ResultInv s) : HaltInv s := fun hhalt => by
  rw [h.running] at hhalt
  cases hhalt

theorem ResultInv.inv {s : State} (h : ResultInv s) (hs : SequencerInv s) : Inv s :=
  ⟨h.config, hs, h.haltInv, h.error, h.records, h.buffer⟩

theorem ResultInv.inv_of_home {s : State} (h : ResultInv s) (hh : s.isHome) : Inv s :=
  Inv.of_home hh h.config h.haltInv h.error h.records h.buffer

/-! ### An effect keeps the invariants and ends in the home state -/

theorem ErrorInv.raiseError {e : ErrKind} (x a b : Byte) (s : State) (he : e ≠ .configuration) :
    ErrorInv (raiseError e x a b s) := by
  cases e with
  | configuration => exact absurd rfl he
  | _ => simp [ErrorInv, Machine.raiseError, ErrKind.code]

theorem StepEffect.errorInv {u t : State} (heff : StepEffect u t) (h : ErrorInv u) : ErrorInv t := by
  cases heff with
  | quiet => exact h
  | raised x a b he => exact ErrorInv.raiseError x a b u he
  | @delivered i k byp hk => cases i <;> exact h

theorem StepEffect.resultInv {u t : State} (heff : StepEffect u t) (h : ResultInv u) (hrec : RecordInv t) : ResultInv t := by
  obtain ⟨hn, hk, -, hr⟩ := heff.config
  refine ⟨hr.trans h.running, ?config, heff.errorInv h.error, hrec, ?buffer⟩
  case config => rw [ConfigInv, hn, hk, hr]; exact h.config
  case buffer => rw [BufferInv, heff.buf]; exact h.buffer

theorem ResultInv.raiseError {e : ErrKind} {x a b : Byte} {s : State} (h : ResultInv s) (he : e ≠ .configuration) :
    Inv (raiseError e x a b s) := by
  have hrec : RecordInv (Machine.raiseError e x a b s) := by simpa [RecordInv, Machine.raiseError] using h.records
  exact ((StepEffect.raised x a b he).resultInv h hrec).inv_of_home ⟨rfl, rfl, rfl⟩

/-- A decoder writes a record of N cells with their exact sum and spread (R21 to R24, R129, R155). -/
theorem RecordInv.recordWrite {i : Instr} {s : State} (h : RecordInv s) (hn : s.cfgN = 16) (hw : i.wf s.cfgN.toNat = true) :
    RecordInv (recordWrite i s) := by
  obtain ⟨hv, hz⟩ := h
  cases i with
  | vframe declared cells wh ah checksum =>
    have hlen : cells.length = s.cfgN.toNat := by simpa [Instr.wf] using hw
    refine ⟨fun r hr => ?_, hz⟩
    cases hr
    exact ⟨hlen, totalOf_toNat (by rw [hlen, hn]; decide), rfl⟩
  | mframe declared eoc mode cur t1 t2 soc checksum => exact ⟨hv, hz⟩
  | zframe declared mode cur res checksum =>
    have hlen : res.length = s.cfgN.toNat := by simpa [Instr.wf] using hw
    refine ⟨hv, fun r hr => ?_⟩
    cases hr
    exact hlen
  | unknown cmd => exact ⟨hv, hz⟩

/-- Whatever a well-formed frame does to a running block, the invariants hold after it. -/
theorem exec_inv {i : Instr} {s t : State} (h : ResultInv s) (hn : s.cfgN = 16) (hw : i.wf s.cfgN.toNat = true)
    (hexec : exec i s = .next t) : Inv t := by
  rcases exec_next_cases hexec with ⟨hhalt, -⟩ | ⟨e, x, a, b, he, -, rfl⟩ | ⟨k, byp, -, hk, rfl⟩
  · rw [h.running] at hhalt; cases hhalt
  · exact ResultInv.raiseError ⟨h.running, h.config, h.error, h.records, h.buffer⟩ he
  · exact ((StepEffect.delivered byp hk).resultInv h (h.records.recordWrite hn hw)).inv_of_home ⟨rfl, rfl, rfl⟩

theorem onTrunc_inv {s : State} (hi : Inv s) (hr : s.run = true) : Inv (onTrunc s) := by
  unfold onTrunc
  split
  · exact hi
  · exact (hi.results hr).raiseError (by decide)
  · exact (hi.results hr).raiseError (by decide)

/-! ### Reset establishes the invariants -/

theorem applyReset_inv (n k : Byte) (en : Bool) (s : State) : Inv (applyReset n k en s) := by
  unfold applyReset
  by_cases hlegal : legalConfig Config.params n k = true
  · rw [if_pos hlegal]
    refine ResultInv.inv_of_home ⟨rfl, hlegal.symm, ?error, ⟨nofun, nofun⟩, rfl⟩ ⟨rfl, rfl, rfl⟩
    case error => simp [ErrorInv, resetRegisters, ErrKind.code]
  · rw [if_neg hlegal]
    refine Inv.of_home ⟨rfl, rfl, rfl⟩ ?config ?halt ?error ⟨nofun, nofun⟩ rfl
    case config => exact (Bool.eq_false_iff.mpr hlegal).symm
    case halt => exact fun _ => ⟨rfl, rfl, rfl, rfl, rfl, rfl, rfl, rfl, rfl, rfl⟩
    case error => simp [ErrorInv, resetRegisters, ErrKind.code]

/-- Settles O41: the start state is what the legal Reset(16, 16, 1) leaves. -/
theorem resetStateMeetsTheInvariants : Obligations.ResetStateMeetsTheInvariants :=
  applyReset_inv 16 16 true State.reset

/-! ### The sequencer's own steps keep its invariants -/

/-- R91, R92. -/
theorem onRxHunt_inv {s : State} (b : Byte) (hi : Inv s) (hr : s.run = true) (hp : s.phase = .hunt) :
    Inv (onRxHunt b s) := by
  have hcnt : s.cnt = 0 := hi.cnt_eq_zero (by rw [hp]; decide)
  have h := hi.results hr
  unfold onRxHunt
  split
  · exact ResultInv.inv ⟨h.running, h.config, h.error, h.records, h.buffer⟩ ⟨fun _ => rfl, fun _ => hcnt, nofun⟩
  · exact ResultInv.inv ⟨h.running, h.config, h.error, h.records, h.buffer⟩
      ⟨fun hne => absurd hp hne, fun _ => hcnt, fun hpay => by simp [hp] at hpay⟩

/-- R101, R115: the capture starts with no byte and the sum of the three bytes before it. -/
theorem latchKnown_inv {s : State} {b : Byte} {k : Kind} (hi : Inv s) (hr : s.run = true) (hp : s.phase = .cmd)
    (hk : kindOfCmd b = some k) : Inv (latchKnown k b s) := by
  have hlast : s.last = 0x00 := hi.last_eq_zero (by rw [hp]; decide)
  have h := hi.results hr
  have hpos : 0 < k.len s.cfgN.toNat := by cases k <;> simp [Kind.len]
  refine ResultInv.inv ⟨h.running, h.config, h.error, h.records, h.buffer⟩
    ⟨fun _ => hlast, fun hne => absurd rfl hne, fun _ => ⟨k, ⟨kindOfCmd_eq_some hk, rfl, rfl⟩, hpos, ?read, ?sum⟩⟩
  case read => exact fun o ho => absurd ho (Nat.not_lt_zero o)
  case sum => simp [latchKnown, captured, byteSum]

theorem Inv.cnt_lt_bufSize {s : State} (hi : Inv s) (hr : s.run = true) (hp : s.phase = .payload) : s.cnt.toNat < 42 := by
  obtain ⟨k, -, hcnt, -, -⟩ := hi.payload hp
  exact Nat.lt_of_lt_of_le hcnt (hi.len_le hr k)

theorem captureByte_results {s : State} (b : Byte) (hi : Inv s) (hr : s.run = true) (hp : s.phase = .payload) :
    ResultInv (s.captureByte b) :=
  ⟨hr, hi.config, hi.error, hi.records, Memory.wf_write _ _ _ _ hi.buffer (hi.cnt_lt_bufSize hr hp)⟩

/-- Before the last byte of a frame, CNT + 1 is still below LEN. -/
theorem Inv.cnt_succ_lt {s : State} {k : Kind} (hi : Inv s) (hr : s.run = true) (hlat : s.latched k)
    (hcnt : s.cnt.toNat < k.len s.cfgN.toNat) (hne : s.cnt + 1 ≠ s.curLen) : s.cnt.toNat + 1 < k.len s.cfgN.toNat := by
  have hkl := hi.len_le hr k
  refine Nat.lt_of_le_of_ne hcnt fun heq => hne ?_
  rw [hlat.curLen, ← heq]
  apply BitVec.eq_of_toNat_eq
  rw [cnt_add_one (by omega), toNat_count (by omega)]

/-- R104, R116: a captured byte that does not complete its frame extends the captured bytes and their sum by one. -/
theorem captureByte_inv {s : State} (b : Byte) (hi : Inv s) (hr : s.run = true) (hp : s.phase = .payload)
    (hne : s.cnt + 1 ≠ s.curLen) : Inv (s.captureByte b) := by
  obtain ⟨k, hlat, hcnt, hread, hsum⟩ := hi.payload hp
  have hlast : s.last = 0x00 := hi.last_eq_zero (by rw [hp]; decide)
  have hlt := hi.cnt_succ_lt hr hlat hcnt hne
  have hcnt' : (s.captureByte b).cnt.toNat = s.cnt.toNat + 1 := cnt_add_one (hi.cnt_lt_bufSize hr hp)
  have hlen : s.curLen.toNat = k.len s.cfgN.toNat := by rw [hlat.curLen, toNat_count (hi.len_le hr k)]
  have hsum' : (s.captureByte b).sum = s.sum + b := if_pos (c := s.cnt.toNat + 1 < s.curLen.toNat) (by rwa [hlen])
  refine (captureByte_results b hi hr hp).inv
    ⟨fun _ => hlast, fun hne => absurd hp hne, fun _ => ⟨k, hlat, ?cnt, fun o ho => ?read, ?sum⟩⟩
  case cnt => rw [hcnt']; exact hlt
  case read =>
    rw [hcnt'] at ho
    show ((s.buf.write s.cnt.toNat b).read o).isSome
    rw [Memory.read_write]
    split
    · rfl
    · exact hread o (by omega)
  case sum =>
    rw [hsum', hcnt', captured_snoc s _ b s.cnt.toNat rfl, byteSum_append, hsum, BitVec.add_assoc]
    simp [byteSum, State.captureByte]

/-! ### The obligations -/

/-- Settles O42: Reset establishes the invariants anew; any other step moves the sequencer, or enters an error, or delivers, and each keeps them. -/
theorem stepKeepsTheInvariants : Obligations.StepKeepsTheInvariants := by
  intro s t hi h
  rcases awaits_reset_or_noReset s with ⟨n, k, en, hreset⟩ | hn
  · rw [step_event hreset] at h
    cases h
    exact applyReset_inv n k en s.consume
  have hi := hi.consume
  rcases step_noReset_cases hn h with rfl | ⟨b, -, hr, hp, rfl⟩ | ⟨b, k, -, hr, hp, hk, rfl⟩ | ⟨b, -, hr, -, hk, hexec⟩ |
    ⟨b, -, hr, hp, -, hne, rfl⟩ | ⟨b, -, hr, hp, -, -, hexec⟩ | ⟨-, hr, rfl⟩
  · exact hi
  · exact onRxHunt_inv b hi hr hp
  · exact latchKnown_inv hi hr hp hk
  · obtain ⟨hn16, -, -⟩ := hi.legal hr
    exact exec_inv (i := .unknown b) (hi.results hr) hn16 (kindOfCmd_eq_none.mp hk) hexec
  · exact captureByte_inv b hi hr hp hne
  · obtain ⟨hn16, -, -⟩ := hi.legal hr
    exact exec_inv (captureByte_results b hi hr hp) hn16 (capturedFrame_wf _) hexec
  · exact onTrunc_inv hi hr

/-- One event never stops a block that meets the invariants: the only stop is a capture at an offset that does not exist. -/
theorem onEvent_next {s : State} (e : Event) (hi : Inv s) : ∃ t, onEvent e s = .next t := by
  rcases onEvent_cases e s with ⟨n, k, en, -, h⟩ | ⟨-, -, h⟩ | ⟨b, -, -, -, h⟩ | ⟨b, k, -, -, -, -, h⟩ | ⟨b, -, -, -, -, h⟩ |
    ⟨b, -, hr, hp, h⟩ | ⟨-, -, h⟩
  case inr.inr.inr.inr.inl =>
    obtain ⟨t, ht⟩ := exec_next (.unknown b) s
    exact ⟨t, h.trans ht⟩
  case inr.inr.inr.inr.inr.inl =>
    obtain ⟨t, ht, -⟩ := onRxPayload_sum b (hi.cnt_lt_bufSize hr hp)
    exact ⟨t, h.trans ht⟩
  all_goals exact ⟨_, h⟩

/-- Settles O43: an edge is no event, an event that the block takes, or outside the contract. -/
theorem everyAllowedInputIsTaken : Obligations.EveryAllowedInputIsTaken := by
  intro s hi
  rcases step_cases s with ⟨hidle, h⟩ | ⟨e, hevent, h⟩ | ⟨houtside, h⟩
  · exact .inl ⟨⟨_, h⟩, by rw [hidle]; nofun⟩
  · obtain ⟨t, ht⟩ := onEvent_next e hi.consume
    exact .inl ⟨⟨t, h.trans ht⟩, by rw [hevent]; nofun⟩
  · exact .inr ⟨houtside, h⟩

end Sys2Proof.Machine


/-! What a step depends on (spec/10_state.md sections 1, 6 and 7, spec/70_reset_and_hazards.md section 3): the bytes of the frame in progress and nothing stale, the registers and nothing of the environment but the event. -/

namespace Sys2Proof.Machine

/-! ### The decoded frame (R60, R107) -/

/-- At the last byte of a frame CNT + 1 is the length its kind implies. -/
theorem Inv.cnt_succ_eq {s : State} {k : Kind} (hi : Inv s) (hr : s.run = true) (hp : s.phase = .payload)
    (hlat : s.latched k) (hlast : s.cnt + 1 = s.curLen) : s.cnt.toNat + 1 = k.len s.cfgN.toNat := by
  rw [← cnt_add_one (hi.cnt_lt_bufSize hr hp), hlast, hlat.curLen, toNat_count (hi.len_le hr k)]

/-- Settles O21: the invariant ties CMDR, KIND and LEN together, so the bytes before the completing step decode as a frame of the latched kind. -/
theorem stepRunsTheDecodedFrame : Obligations.StepRunsTheDecodedFrame := by
  intro s b i hi hr hb
  refine ⟨fun hp hl hdecode => ?payload, fun hp hdecode => ?cmd⟩
  case payload =>
    obtain ⟨k, ⟨hcmdr, hk, hlen⟩, hcnt, -, -⟩ := hi.payload hp
    have hkl := hi.len_le hr k
    have hlast : s.cnt.toNat + 1 = k.len s.cfgN.toNat :=
      hi.cnt_succ_eq hr hp ⟨hcmdr, hk, hlen⟩ (by rw [State.curLen, hl, Option.getD_some])
    have hknown := decode_known (n := s.cfgN.toNat) (k := k) (f := captured s s.cnt.toNat ++ [b]) [] (by simp [hlast])
    rw [List.append_nil, ← hcmdr] at hknown
    cases hknown.symm.trans hdecode
    exact step_completes hr hp hb hk hlen hkl hlast
  case cmd =>
    rcases decode_frame_cases hdecode with ⟨cmd, hc, hbytes, rfl⟩ | ⟨k, f, hf, hbytes, -⟩
    · cases hbytes
      exact step_unknown hb hr hp hc
    · have hempty : f.length = 0 := by
        have := congrArg List.length hbytes
        simpa using this
      cases k <;> simp [Kind.len] at hf <;> omega

/-! ### Stale content (R34, R203) -/

theorem AgreeLive.refl (s : State) : AgreeLive s s :=
  ⟨⟨s.cmdr, s.kind, s.len, s.sum, s.buf, rfl⟩, fun _ => ⟨rfl, rfl, rfl, rfl, fun _ _ => rfl⟩⟩

/-- Outside PAYLOAD any content of the stale registers will do. -/
theorem AgreeLive.of_not_payload {s : State} (hp : s.phase ≠ .payload) (cmdr : Byte) (kind : Option Kind)
    (len : Option Count) (sum : Byte) (buf : Memory) :
    AgreeLive s { s with cmdr := cmdr, kind := kind, len := len, sum := sum, buf := buf } :=
  ⟨⟨cmdr, kind, len, sum, buf, rfl⟩, fun h => absurd h hp⟩

/-- Two states that differ in BUF alone, and not at the captured offsets. -/
theorem AgreeLive.of_setBuf {s : State} {m : Memory} (h : ∀ o, o < s.cnt.toNat → m.read o = s.buf.read o) :
    AgreeLive s (s.setBuf m) :=
  ⟨⟨s.cmdr, s.kind, s.len, s.sum, m, rfl⟩, fun _ => ⟨rfl, rfl, rfl, rfl, h⟩⟩

theorem AgreeLive.consume {s s' : State} (h : AgreeLive s s') : AgreeLive s.consume s'.consume := by
  obtain ⟨⟨cmdr, kind, len, sum, buf, rfl⟩, hlive⟩ := h
  exact ⟨⟨cmdr, kind, len, sum, buf, rfl⟩, hlive⟩

theorem AgreeLive.nextPins {s s' : State} (h : AgreeLive s s') : s'.nextPins = s.nextPins := by
  obtain ⟨⟨cmdr, kind, len, sum, buf, rfl⟩, -⟩ := h
  rfl

/-- In PAYLOAD only BUF can differ. -/
theorem AgreeLive.payload {s s' : State} (h : AgreeLive s s') (hp : s.phase = .payload) :
    ∃ m : Memory, s' = s.setBuf m ∧ ∀ o, o < s.cnt.toNat → m.read o = s.buf.read o := by
  obtain ⟨⟨cmdr, kind, len, sum, buf, rfl⟩, hlive⟩ := h
  obtain ⟨rfl, rfl, rfl, rfl, hread⟩ := hlive hp
  exact ⟨buf, rfl, hread⟩

/-- Reset leaves nothing of what was stale. -/
theorem applyReset_agree {s s' : State} (h : AgreeLive s s') (n k : Byte) (en : Bool) :
    applyReset n k en s' = applyReset n k en s := by
  obtain ⟨⟨cmdr, kind, len, sum, buf, rfl⟩, -⟩ := h
  rfl

theorem onRxHunt_agree {s s' : State} (h : AgreeLive s s') (b : Byte) (hp : s.phase = .hunt) :
    AgreeLive (onRxHunt b s) (onRxHunt b s') := by
  obtain ⟨⟨cmdr, kind, len, sum, buf, rfl⟩, -⟩ := h
  unfold onRxHunt
  by_cases hm : s.last = mark ∧ b = mark
  · rw [if_pos hm, if_pos hm]
    exact AgreeLive.of_not_payload (s := { s with last := 0x00, phase := .cmd }) (by simp) cmdr kind len sum buf
  · rw [if_neg hm, if_neg hm]
    exact AgreeLive.of_not_payload (s := { s with last := b }) (by simp [hp]) cmdr kind len sum buf

/-- R101 writes every stale register but BUF, of which nothing is captured yet. -/
theorem latchKnown_agree {s s' : State} (h : AgreeLive s s') (k : Kind) (b : Byte) :
    AgreeLive (latchKnown k b s) (latchKnown k b s') := by
  obtain ⟨⟨cmdr, kind, len, sum, buf, rfl⟩, -⟩ := h
  exact AgreeLive.of_setBuf (s := latchKnown k b s) (m := buf) fun o ho => absurd ho (Nat.not_lt_zero o)

/-- Error entry ends in HUNT, where nothing stale can be read. -/
theorem raiseError_agree {s s' : State} (h : AgreeLive s s') (e : ErrKind) (x a b : Byte) :
    AgreeLive (raiseError e x a b s) (raiseError e x a b s') := by
  obtain ⟨⟨cmdr, kind, len, sum, buf, rfl⟩, -⟩ := h
  cases e <;> exact AgreeLive.of_not_payload (by simp [raiseError]) cmdr kind len sum buf

/-- R93, R103, R105: Trunc reads CMDR and LEN in PAYLOAD alone. -/
theorem onTrunc_agree {s s' : State} (h : AgreeLive s s') : AgreeLive (onTrunc s) (onTrunc s') := by
  have hphase : s'.phase = s.phase := by obtain ⟨⟨cmdr, kind, len, sum, buf, rfl⟩, -⟩ := h; rfl
  cases hp : s.phase with
  | hunt => simpa only [onTrunc, hphase, hp] using h
  | cmd => simpa only [onTrunc, hphase, hp] using raiseError_agree h .truncated 0x00 0x00 0x00
  | payload =>
    obtain ⟨m, rfl, hread⟩ := h.payload hp
    simp only [onTrunc, hphase, hp]
    exact raiseError_agree h .truncated s.cmdr (s.cnt.setWidth 8) (s.curLen.setWidth 8)

/-- The frame in BUF depends only on the offsets its kind occupies. -/
theorem capturedFrame_setBuf {s : State} {m : Memory} {k : Kind} (hk : s.kind = some k)
    (h : ∀ o, o < k.len s.cfgN.toNat → m.read o = s.buf.read o) : capturedFrame (s.setBuf m) = capturedFrame s := by
  have hbytes := captured_congr (s := s) (t := s.setBuf m) h
  simp only [capturedFrame, State.curKind, State.setBuf_kind, State.setBuf_cfgN, hk, Option.getD_some, hbytes]

/-- The capture reads nothing of BUF; at the last byte of a frame every offset the decoder reads has been captured. -/
theorem onRxPayload_agree {s t : State} {m : Memory} (b : Byte) (hi : Inv s) (hr : s.run = true) (hp : s.phase = .payload)
    (hread : ∀ o, o < s.cnt.toNat → m.read o = s.buf.read o) (h : onRxPayload b s = .next t) :
    ∃ t', onRxPayload b (s.setBuf m) = .next t' ∧ AgreeLive t t' := by
  have h42 := hi.cnt_lt_bufSize hr hp
  have hread' : ∀ o, o < s.cnt.toNat + 1 → (m.write s.cnt.toNat b).read o = (s.buf.write s.cnt.toNat b).read o := by
    intro o ho
    rw [Memory.read_write, Memory.read_write]
    split
    · rfl
    · exact hread o (by omega)
  have hcapture : (s.setBuf m).captureByte b = (s.captureByte b).setBuf (m.write s.cnt.toNat b) := rfl
  rw [onRxPayload_eq b h42] at h
  rw [onRxPayload_eq (s := s.setBuf m) b h42, hcapture]
  by_cases hlast : s.cnt + 1 = s.curLen
  · rw [if_pos hlast] at h
    obtain ⟨k, hlat, -, -, -⟩ := hi.payload hp
    have hcnt := hi.cnt_succ_eq hr hp hlat hlast
    obtain ⟨-, hk, -⟩ := hlat
    have hframe := capturedFrame_setBuf (s := s.captureByte b) (m := m.write s.cnt.toNat b) hk
      fun o ho => hread' o (hcnt ▸ ho)
    obtain ⟨u, e, hu, ⟨hhunt, -, -⟩, -⟩ := exec_running (i := capturedFrame (s.captureByte b)) (s := s.captureByte b) hr
    cases hu.symm.trans h
    refine ⟨t.setBuf (m.write s.cnt.toNat b), ?_, AgreeLive.of_not_payload (by rw [hhunt]; decide) _ _ _ _ _⟩
    rw [hframe]
    exact (if_pos hlast).trans (exec_setBuf _ _ h)
  · rw [if_neg hlast] at h
    cases h
    refine ⟨_, if_neg hlast, AgreeLive.of_setBuf fun o ho => hread' o ?_⟩
    exact Nat.lt_of_lt_of_eq ho (cnt_add_one h42)

/-- One event takes two states that agree to states that agree. -/
theorem onEvent_agree {s s' t : State} {e : Event} (hi : Inv s) (hag : AgreeLive s s') (h : onEvent e s = .next t) :
    ∃ t', onEvent e s' = .next t' ∧ AgreeLive t t' := by
  have hrun : s'.run = s.run := by obtain ⟨⟨cmdr, kind, len, sum, buf, rfl⟩, -⟩ := hag; rfl
  have hphase : s'.phase = s.phase := by obtain ⟨⟨cmdr, kind, len, sum, buf, rfl⟩, -⟩ := hag; rfl
  rcases onEvent_cases e s with ⟨n, k, en, rfl, h'⟩ | ⟨he, hr, h'⟩ | ⟨b, rfl, hr, hp, h'⟩ | ⟨b, k, rfl, hr, hp, hk, h'⟩ |
    ⟨b, rfl, hr, hp, hk, h'⟩ | ⟨b, rfl, hr, hp, h'⟩ | ⟨rfl, hr, h'⟩ <;> rw [h'] at h
  · cases h
    exact ⟨_, rfl, by rw [applyReset_agree hag]; exact AgreeLive.refl _⟩
  · cases h
    exact ⟨s', onEvent_halted (hrun.trans hr) he, hag⟩
  · cases h
    exact ⟨_, onEvent_rx_hunt b (hrun.trans hr) (hphase.trans hp), onRxHunt_agree hag b hp⟩
  · cases h
    exact ⟨_, onEvent_rx_known (hrun.trans hr) (hphase.trans hp) hk, latchKnown_agree hag k b⟩
  · rw [exec_unknown_running b hr] at h
    cases h
    refine ⟨_, (onEvent_rx_unknown (hrun.trans hr) (hphase.trans hp) hk).trans (exec_unknown_running b (hrun.trans hr)), ?_⟩
    refine raiseError_agree ?_ .unknownCommand b 0x00 0x00
    obtain ⟨⟨cmdr, kind, len, sum, buf, rfl⟩, -⟩ := hag
    exact AgreeLive.of_not_payload (s := s.latchCmd b) (by simp [hp]) b kind len sum buf
  · obtain ⟨m, rfl, hread⟩ := hag.payload hp
    obtain ⟨t', ht', hagree⟩ := onRxPayload_agree b hi hr hp hread h
    exact ⟨t', (onEvent_rx_payload (u := s.setBuf m) b hr hp).trans ht', hagree⟩
  · cases h
    exact ⟨_, onEvent_trunc (hrun.trans hr), onTrunc_agree hag⟩

/-- Settles O45: both states sample the same edge, and each event keeps the agreement. -/
theorem staleContentIsInvisible : Obligations.StaleContentIsInvisible := by
  intro s s' t hi _ hag h
  have hpins := hag.nextPins
  rcases step_cases s with ⟨hidle, h'⟩ | ⟨e, hevent, h'⟩ | ⟨-, h'⟩ <;> rw [h'] at h
  · cases h
    exact ⟨_, step_idle (by rw [hpins, hidle]), hag.consume⟩
  · obtain ⟨t', ht', hagree⟩ := onEvent_agree hi.consume hag.consume h
    exact ⟨t', (step_event (by rw [State.awaits, hpins, hevent])).trans ht', hagree⟩
  · cases h

/-! ### The registers are the state (R10) -/

/-- Two states of the block that differ in the environment only: further input, and the events before this step. -/
def SameBlock (s t : State) : Prop := s.toRegisters = t.toRegisters ∧ s.out = t.out

/-- Two answers that differ in the environment only. -/
inductive SameAnswer : Outcome → Outcome → Prop
  | next {s t : State} (h : SameBlock s t) : SameAnswer (.next s) (.next t)
  | fault (f : Fault) : SameAnswer (.fault f) (.fault f)

theorem SameBlock.eq_update {s t : State} (h : SameBlock s t) : t = { s with input := t.input, sent := t.sent } := by
  obtain ⟨hregs, hout⟩ := h
  rw [hregs, hout]

theorem SameBlock.raiseError {s t : State} (h : SameBlock s t) (e : ErrKind) (x a b : Byte) :
    SameBlock (raiseError e x a b s) (raiseError e x a b t) := by
  rw [h.eq_update]
  cases e <;> exact ⟨rfl, rfl⟩

/-- A frame's meaning reads the registers alone. -/
theorem SameBlock.exec {s t : State} (h : SameBlock s t) (i : Instr) : SameAnswer (exec i s) (exec i t) := by
  have ht := h.eq_update
  have hrun : t.run = s.run := by rw [ht]
  have hsum : t.sum = s.sum := by rw [ht]
  have hlen : t.curLen = s.curLen := by rw [ht]; rfl
  have hcmdr : t.cmdr = s.cmdr := by rw [ht]
  have hen : t.cfgCsumEn = s.cfgCsumEn := by rw [ht]
  rcases exec_cases i s with ⟨hr, h'⟩ | ⟨hr, hf, h'⟩ | ⟨k, d, c, hr, hf, hd, h'⟩ | ⟨k, d, c, hr, hf, hd, hce, hne, h'⟩ |
    ⟨k, d, c, hr, hf, hd, hok, h'⟩ <;> rw [h']
  · rw [haltedBlockTakesNoFrame i t (hrun.trans hr)]
    exact .next h
  · cases i with
    | unknown cmd =>
      rw [exec_unknown_running cmd (hrun.trans hr)]
      refine .next (SameBlock.raiseError ?_ _ _ _ _)
      rw [ht]
      exact ⟨rfl, rfl⟩
    | _ => cases hf
  · rw [exec_framing hf (hrun.trans hr) (by rwa [hlen]), hlen, hcmdr]
    exact .next (h.raiseError _ _ _ _)
  · rw [exec_mismatch hf (hrun.trans hr) (by rwa [hlen]) (hen.trans hce) (by rwa [hsum]), hsum, hcmdr]
    exact .next (h.raiseError _ _ _ _)
  · rw [exec_delivers hf (hrun.trans hr) (by rwa [hlen]) (by rwa [hen, hsum]), hsum, ht]
    cases i <;> exact .next ⟨rfl, rfl⟩

/-- R104 in two blocks with the same registers. -/
theorem SameBlock.onRxPayload {s t : State} (h : SameBlock s t) (b : Byte) :
    SameAnswer (onRxPayload b s) (onRxPayload b t) := by
  have ht := h.eq_update
  have hcnt : t.cnt = s.cnt := by rw [ht]
  have hlen : t.curLen = s.curLen := by rw [ht]; rfl
  have hcapture : SameBlock (s.captureByte b) (t.captureByte b) := by rw [ht]; exact ⟨rfl, rfl⟩
  have hframe : capturedFrame (t.captureByte b) = capturedFrame (s.captureByte b) := by rw [ht]; rfl
  by_cases h42 : s.cnt.toNat < 42
  · rw [onRxPayload_eq b h42, onRxPayload_eq b (by rwa [hcnt]), hcnt, hlen, hframe]
    split
    · exact hcapture.exec _
    · exact .next hcapture
  · rw [onRxPayload_full b (by omega), onRxPayload_full b (by rw [hcnt]; omega)]
    exact .fault _

/-- One event, in two blocks with the same registers. -/
theorem SameBlock.onEvent {s t : State} (h : SameBlock s t) (e : Event) : SameAnswer (onEvent e s) (onEvent e t) := by
  have ht := h.eq_update
  have hrun : t.run = s.run := by rw [ht]
  have hphase : t.phase = s.phase := by rw [ht]
  rcases onEvent_cases e s with ⟨n, k, en, rfl, h'⟩ | ⟨he, hr, h'⟩ | ⟨b, rfl, hr, hp, h'⟩ | ⟨b, k, rfl, hr, hp, hk, h'⟩ |
    ⟨b, rfl, hr, hp, hk, h'⟩ | ⟨b, rfl, hr, hp, h'⟩ | ⟨rfl, hr, h'⟩ <;> rw [h']
  · refine .next ?_
    unfold applyReset
    split <;> exact ⟨rfl, rfl⟩
  · rw [onEvent_halted (hrun.trans hr) he]
    exact .next h
  · rw [onEvent_rx_hunt b (hrun.trans hr) (hphase.trans hp), ht]
    refine .next ?_
    unfold onRxHunt
    split <;> exact ⟨rfl, rfl⟩
  · rw [onEvent_rx_known (hrun.trans hr) (hphase.trans hp) hk, ht]
    exact .next ⟨rfl, rfl⟩
  · rw [onEvent_rx_unknown (hrun.trans hr) (hphase.trans hp) hk]
    exact h.exec _
  · rw [onEvent_rx_payload b (hrun.trans hr) (hphase.trans hp)]
    exact h.onRxPayload b
  · rw [onEvent_trunc (hrun.trans hr)]
    refine .next ?_
    cases hp : s.phase with
    | hunt => simpa only [onTrunc, hphase, hp] using h
    | cmd => simpa only [onTrunc, hphase, hp] using h.raiseError .truncated 0x00 0x00 0x00
    | payload =>
      have hraise := h.raiseError .truncated s.cmdr (s.cnt.setWidth 8) (s.curLen.setWidth 8)
      simp only [onTrunc, hphase, hp]
      rw [ht] at hraise ⊢
      exact hraise

/-- Settles O58: consuming the edge makes the two blocks equal but for their environments, and the event keeps them so. -/
theorem onlyTheRegistersAreState : Obligations.OnlyTheRegistersAreState := by
  intro s t e hregs hs ht
  have hblock : SameBlock s.consume t.consume := ⟨hregs, rfl⟩
  have hanswer := hblock.onEvent e
  rw [step_event hs, step_event ht]
  generalize onEvent e s.consume = a, onEvent e t.consume = b at hanswer ⊢
  cases hanswer with
  | next h =>
    obtain ⟨hregs', hout⟩ := h
    exact .inl ⟨_, _, rfl, rfl, hregs', hout⟩
  | fault f => exact .inr ⟨f, rfl, rfl⟩

end Sys2Proof.Machine


/-! The spread calculator (spec/46_spread.md): minimum and maximum of the first K cells with the last indices that hold them (R155 to R158, R161). -/

namespace Sys2Proof.Machine

section
variable {k : Nat} {cells : List U16}

/-- R157: an index of the first 16 cells is held exactly. -/
theorem toNat_cellIdx {x : Nat} (h : x < 16) : (BitVec.ofNat _ x : CellIdx).toNat = x := by
  rw [BitVec.toNat_ofNat, Config.params_indexWidth]
  omega

theorem index_lt_of_take {j : Nat} {v : U16} (h : (cells.take k)[j]? = some v) : j < k := by
  obtain ⟨hj, -⟩ := List.getElem?_eq_some_iff.mp h
  rw [List.length_take] at hj
  omega

/-- R156, R158: what the scan over the first K cells leaves, stated of the S registers. -/
theorem spreadOf_good (h1 : 1 ≤ k) (h2 : k ≤ cells.length) (h16 : k ≤ 16) :
    (∀ v ∈ cells.take k, (spreadOf k cells).vMin.toNat ≤ v.toNat ∧ v.toNat ≤ (spreadOf k cells).vMax.toNat) ∧
    (cells.take k)[(spreadOf k cells).minIdx.toNat]? = some (spreadOf k cells).vMin ∧
    (cells.take k)[(spreadOf k cells).maxIdx.toNat]? = some (spreadOf k cells).vMax ∧
    (∀ j, (spreadOf k cells).minIdx.toNat < j → (cells.take k)[j]? ≠ some (spreadOf k cells).vMin) ∧
    (∀ j, (spreadOf k cells).maxIdx.toNat < j → (cells.take k)[j]? ≠ some (spreadOf k cells).vMax) := by
  have hgood := ScanGood.spread h1 h2
  have htake : (cells.take k).take k = cells.take k := by rw [List.take_take, Nat.min_self]
  obtain ⟨hbound, hmin, hmax, hlastMin, hlastMax⟩ := hgood
  rw [htake] at hbound hmin hmax hlastMin hlastMax
  have himin : (spreadOf k cells).minIdx.toNat = (scanFrom 0 (cells.take k) scanStart).imin :=
    toNat_cellIdx (Nat.lt_of_lt_of_le (index_lt_of_take hmin) h16)
  have himax : (spreadOf k cells).maxIdx.toNat = (scanFrom 0 (cells.take k) scanStart).imax :=
    toNat_cellIdx (Nat.lt_of_lt_of_le (index_lt_of_take hmax) h16)
  rw [himin, himax]
  exact ⟨hbound, hmin, hmax, hlastMin, hlastMax⟩

/-- R161: the last index that holds the common value of K equal cells is K - 1. -/
theorem index_eq_last_of_all_equal {j : Nat} {x : U16} (h1 : 1 ≤ k) (h2 : k ≤ cells.length)
    (heq : ∀ u ∈ cells.take k, ∀ v ∈ cells.take k, u = v) (hj : (cells.take k)[j]? = some x)
    (hlast : ∀ j', j < j' → (cells.take k)[j']? ≠ some x) : j = k - 1 := by
  have hjk := index_lt_of_take hj
  have hin : k - 1 < (cells.take k).length := by rw [List.length_take]; omega
  have hx : (cells.take k)[k - 1]? = some x := by
    rw [List.getElem?_eq_getElem hin]
    exact congrArg some (heq _ (List.getElem_mem hin) _ (List.mem_of_getElem? hj))
  by_contra hne
  exact hlast (k - 1) (by omega) hx

end

/-! ### The obligations -/

/-- Settles O35: what the scan leaves, and the subtraction that does not borrow. -/
theorem spreadIsMinMaxWithLastIndices : Obligations.SpreadIsMinMaxWithLastIndices := by
  intro k cells h1 h2 h16 w r
  obtain ⟨hbound, hmin, hmax, hlastMin, hlastMax⟩ := spreadOf_good h1 h2 h16
  exact ⟨hbound, hmin, hmax, hlastMin, hlastMax, spreadOf_diff_toNat h1 h2⟩

/-- Settles O37: at one common index the minimum is the maximum, so all K cells are equal; and K equal cells have both last at K - 1. -/
theorem spreadIndicesDifferUnlessAllEqual : Obligations.SpreadIndicesDifferUnlessAllEqual := by
  intro k cells h1 h2 h16 w r
  obtain ⟨hbound, hmin, hmax, hlastMin, hlastMax⟩ := spreadOf_good h1 h2 h16
  refine ⟨fun ⟨u, hu, v, hv, hne⟩ hidx => ?differ, fun heq => ?equal⟩
  case differ =>
    have hidx : (spreadOf k cells).minIdx = (spreadOf k cells).maxIdx := hidx
    rw [hidx, hmax] at hmin
    have hsame : (spreadOf k cells).vMax = (spreadOf k cells).vMin := Option.some.inj hmin
    rw [hsame] at hbound
    obtain ⟨hu1, hu2⟩ := hbound u hu
    obtain ⟨hv1, hv2⟩ := hbound v hv
    exact hne (BitVec.eq_of_toNat_eq (by omega))
  case equal =>
    refine ⟨index_eq_last_of_all_equal h1 h2 heq hmin hlastMin, index_eq_last_of_all_equal h1 h2 heq hmax hlastMax, ?_⟩
    have hsame : (spreadOf k cells).vMax = (spreadOf k cells).vMin :=
      heq _ (List.mem_of_getElem? hmax) _ (List.mem_of_getElem? hmin)
    apply BitVec.eq_of_toNat_eq
    rw [spreadOf_diff_toNat h1 h2, hsame, Nat.sub_self]
    rfl

end Sys2Proof.Machine

/-! The scales of the result registers (spec/10_state.md R25) and the derived sizes (spec/00_scope.md R7). -/

namespace Sys2Proof.Machine

/-- Settles O54: the divisor and the unit of each of the 18 registers. -/
theorem scalesAreExactRationals : Obligations.ScalesAreExactRationals := by
  intro raw r
  refine ⟨fun h => ?thousandth, fun h => ?tenth, fun h => ?one, ?none, ?unit⟩
  case thousandth => exact physical_of_divisor (by fin_cases h <;> rfl) raw
  case tenth => exact physical_of_divisor (by fin_cases h <;> rfl) raw
  case one => exact physical_of_divisor_one (by fin_cases h <;> rfl) raw
  case none => rintro rfl; rfl
  case unit => cases r <;> decide

/-- Settles O55: every size is taken at the largest supported N, which bounds every other. -/
theorem sizesFitEverySupportedN : Obligations.SizesFitEverySupportedN := by
  refine ⟨fun P n hn h1 => ⟨Params.len_le_bufSize hn h1, P.bufSize_lt, fun i hi => ?index, P.total_lt (Params.le_maxN hn)⟩, ?defaults⟩
  case index =>
    have hmax := Params.le_maxN hn
    have hfits := P.maxN_le
    omega
  case defaults => decide

end Sys2Proof.Machine
